-- ==== Sys2Proof/Word.lean ====
section
/-! DEFINITION. The words of RBFT: one storage element (EW = 8 bits), one operand field (16 bits), one command, response
or timestamp word (32 bits, TW = 32). spec/00_scope.md R4, R6; spec/30_encoding.md R61, R64. -/

namespace Sys2Proof

/-- One element of the store, one beat (EW = 8, R4). -/
abbrev Byte := BitVec 8

/-- The operand field `imm` and the result field `val` (R61, R64). -/
abbrev Half := BitVec 16

/-- A command word, a response word, a timestamp (R6, R4: TW = 32). -/
abbrev Word := BitVec 32

end Sys2Proof
end

