-- ==== Sys2Proof/Config.lean ====
section
/-! DEFINITION. What one instance of RBFT fixes (the OPEN parameters of spec/00_scope.md R4) and the free values the spec
leaves open (spec/93_implementation_defined.md U1, U11). -/

namespace Sys2Proof

/-- The six OPEN parameters of R4, "arguments of the step relation". They are plain data carried in State, so that whatever
is proved for every state is proved for every value of them (assumption log 1). -/
structure Params where
  /-- CMAX, the number of storage cells. -/
  cmax       : Nat
  /-- CINIT, the capacity after reset. -/
  cinit      : Nat
  /-- EMPTY_VALUE, the "configured 'empty' sentinel value". -/
  emptyValue : Byte
  /-- PREFILL, whether reset writes EMPTY_VALUE into every cell. -/
  prefill    : Bool
  /-- DMAXLEN, the greatest length of a delimiter. -/
  dmaxlen    : Nat
  /-- FQ_DEPTH, the greatest number of queued frames. -/
  fqDepth    : Nat
deriving DecidableEq, Repr

/-- AW, "least AW with 2^AW > CMAX" (R4): the width of `cap`, `rp`, `wp`, `sz`, `ldc`. R4's row lists `xlen` too; the
model gives it R21's 16 bits, DESIGN CHOICE (log 20). -/
def Params.aw (p : Params) : Nat := Nat.log2 p.cmax + 1

/-- The instance `Machine.State.reset` is built for: the values the vectors of spec/95_test_vectors.md assume, with
CMAX = CINIT = 32 (its triage vectors). DESIGN CHOICE, unsafe where a statement rests on it (log 1). -/
def Params.standard : Params :=
  { cmax := 32, cinit := 32, emptyValue := 0x00#8, prefill := false, dmaxlen := 8, fqDepth := 8 }

/-- Free value (U1): what the `k`-th read of the store finds in cell `a` when no rule has written that cell. No body: nothing
can be proved of it (log 3). -/
opaque Config.freeCell : (k : Nat) → (a : Nat) → Byte

/-- Free value (U11): the `k`-th value the tick source offers, before the premise of R170 is applied. No body (log 4). -/
opaque Config.freeTick : (k : Nat) → Word

end Sys2Proof
end

