-- ==== Sys2Proof/Syntax.lean ====
section
/-! DEFINITION. The 24 commands of spec/30_encoding.md R67, one constructor per row of spec/opcode_table.json. -/

namespace Sys2Proof

/-- A command with its operand (R62: `imm` is an unsigned 16-bit number used as it stands; PUSH uses `imm[7:0]`). The input
beats of PUSHN, SETSOF and SETEOF are not part of the command word: they come with the transaction (R63). -/
inductive Instr where
  | nop
  | push (v : Byte)
  | pushn (len : Half)
  | pop
  | popn (n : Half)
  | read (len : Half)
  | peek
  | peekn (len : Half)
  | index (i : Half)
  | dmasync (rem : Half)
  | setrp (pos : Half)
  | resize (newcap : Half)
  | clear
  | run
  | recv
  | setsof (len : Half)
  | clrsof
  | seteof (len : Half)
  | clreof
  | setlen (len : Half)
  | clrlen
  | frames
  | bytes
  | rdsr (r : Half)
deriving DecidableEq, Repr

end Sys2Proof
end

