-- ==== Sys2Proof/WellFormed.lean ====
section
/-! DEFINITION. What is checked before a command has a meaning: the ranges of the instance's parameters (spec/00_scope.md R4)
and the number of input beats a command takes (spec/30_encoding.md R63, R72). Every term of `Instr` is encodable by the types
of its operands, so a command alone needs no check. -/

namespace Sys2Proof

/-- The ranges of R4, each a check of its own. -/
abbrev Params.wf (p : Params) : Prop :=
  1 ≤ p.cmax ∧ p.cmax ≤ 65535 ∧ p.cinit ≤ p.cmax ∧ 1 ≤ p.dmaxlen ∧ p.dmaxlen ≤ 255 ∧ 1 ≤ p.fqDepth ∧ p.fqDepth ≤ 65535

/-- R63: "PUSHN, SETSOF and SETEOF take exactly `imm` input beats, `|in| = imm`; every other command takes none". -/
def Instr.beatCount : Instr → Nat
  | .nop => 0
  | .push _ => 0
  | .pushn len => len.toNat
  | .pop => 0
  | .popn _ => 0
  | .read _ => 0
  | .peek => 0
  | .peekn _ => 0
  | .index _ => 0
  | .dmasync _ => 0
  | .setrp _ => 0
  | .resize _ => 0
  | .clear => 0
  | .run => 0
  | .recv => 0
  | .setsof len => len.toNat
  | .clrsof => 0
  | .seteof len => len.toNat
  | .clreof => 0
  | .setlen _ => 0
  | .clrlen => 0
  | .frames => 0
  | .bytes => 0
  | .rdsr _ => 0

/-- A transaction is well formed when it brings exactly the beats its command takes; any other is malformed (R72). -/
abbrev Instr.WellFormedWith (i : Instr) (beats : List Byte) : Prop := beats.length = i.beatCount

end Sys2Proof
end

