-- ==== Sys2Proof/Decode.lean ====
section
/-! DEFINITION. Command words (spec/30_encoding.md R61, R67, R68): the decoder, total on every 32-bit word and rejecting by
name; the encoder; the mask and match rows of the opcode map. A command word is one indivisible value (R41), so no byte order
enters (log 17). -/

namespace Sys2Proof

/-- Why a word is no command (R68). Every one of these answers BADOP; the name only says which clause of R68 applies. -/
inductive DecodeError where
  /-- the `z` field is not zero -/
  | reservedNotZero (z : Byte)
  /-- `op` is not one of the 24 opcodes -/
  | unknownOpcode (op : Byte)
  /-- a command without operand has `imm` not zero -/
  | operandNotZero (imm : Half)
  /-- PUSH with `imm[15:8]` not zero -/
  | elementTooWide (imm : Half)
deriving DecidableEq, Repr

/-- The field `op`, bits 31:24 (R61). -/
def opField (w : Word) : Byte := w.extractLsb' 24 8

/-- The field `z`, bits 23:16 (R61). -/
def zField (w : Word) : Byte := w.extractLsb' 16 8

/-- The field `imm`, bits 15:0 (R61). -/
def immField (w : Word) : Half := w.extractLsb' 0 16

/-- A command without operand: `imm` must be zero (R61, R68). -/
def decodeBare (imm : Half) (i : Instr) : Except DecodeError Instr :=
  if imm = 0#16 then .ok i else .error (.operandNotZero imm)

/-- PUSH: the element is `imm[7:0]`, and `imm[15:8]` must be zero (R62, R68). -/
def decodePush (imm : Half) : Except DecodeError Instr :=
  if imm.extractLsb' 8 8 = 0#8 then .ok (.push (imm.extractLsb' 0 8)) else .error (.elementTooWide imm)

/-- The opcode map of R67, on the fields `op` and `imm`. -/
def decodeFields (op : Byte) (imm : Half) : Except DecodeError Instr :=
  match op.toNat with
  | 0x00 => decodeBare imm .nop
  | 0x10 => decodePush imm
  | 0x11 => .ok (.pushn imm)
  | 0x12 => decodeBare imm .pop
  | 0x13 => .ok (.popn imm)
  | 0x14 => .ok (.read imm)
  | 0x15 => decodeBare imm .peek
  | 0x16 => .ok (.peekn imm)
  | 0x17 => .ok (.index imm)
  | 0x18 => .ok (.dmasync imm)
  | 0x19 => .ok (.setrp imm)
  | 0x1A => .ok (.resize imm)
  | 0x1B => decodeBare imm .clear
  | 0x20 => decodeBare imm .run
  | 0x21 => decodeBare imm .recv
  | 0x22 => .ok (.setsof imm)
  | 0x23 => decodeBare imm .clrsof
  | 0x24 => .ok (.seteof imm)
  | 0x25 => decodeBare imm .clreof
  | 0x26 => .ok (.setlen imm)
  | 0x27 => decodeBare imm .clrlen
  | 0x28 => decodeBare imm .frames
  | 0x29 => decodeBare imm .bytes
  | 0x30 => .ok (.rdsr imm)
  | _ => .error (.unknownOpcode op)

/-- The command a word stands for, or why it is illegal (R67, R68). -/
def decode (w : Word) : Except DecodeError Instr :=
  if zField w = 0#8 then decodeFields (opField w) (immField w) else .error (.reservedNotZero (zField w))

/-- The opcode of a command (R67). -/
def Instr.opcode : Instr → Byte
  | .nop => 0x00#8
  | .push _ => 0x10#8
  | .pushn _ => 0x11#8
  | .pop => 0x12#8
  | .popn _ => 0x13#8
  | .read _ => 0x14#8
  | .peek => 0x15#8
  | .peekn _ => 0x16#8
  | .index _ => 0x17#8
  | .dmasync _ => 0x18#8
  | .setrp _ => 0x19#8
  | .resize _ => 0x1A#8
  | .clear => 0x1B#8
  | .run => 0x20#8
  | .recv => 0x21#8
  | .setsof _ => 0x22#8
  | .clrsof => 0x23#8
  | .seteof _ => 0x24#8
  | .clreof => 0x25#8
  | .setlen _ => 0x26#8
  | .clrlen => 0x27#8
  | .frames => 0x28#8
  | .bytes => 0x29#8
  | .rdsr _ => 0x30#8

/-- The operand field of a command, zero where it has no operand (R61, R62). -/
def Instr.operand : Instr → Half
  | .nop => 0#16
  | .push v => 0#8 ++ v
  | .pushn len => len
  | .pop => 0#16
  | .popn n => n
  | .read len => len
  | .peek => 0#16
  | .peekn len => len
  | .index i => i
  | .dmasync rem => rem
  | .setrp pos => pos
  | .resize newcap => newcap
  | .clear => 0#16
  | .run => 0#16
  | .recv => 0#16
  | .setsof len => len
  | .clrsof => 0#16
  | .seteof len => len
  | .clreof => 0#16
  | .setlen len => len
  | .clrlen => 0#16
  | .frames => 0#16
  | .bytes => 0#16
  | .rdsr r => r

/-- The command word of a command: `op`, `z` = 0, `imm` (R61). -/
def encode (i : Instr) : Word := i.opcode ++ 0#8 ++ i.operand

/-- One row of the opcode map: the word `w` is the row's command if and only if `w AND mask = match` (R67). -/
structure OpcodeRow where
  mask  : Word
  value : Word
deriving DecidableEq, Repr

/-- The mask and match of each command, as the table of R67 (and spec/opcode_table.json) prints them. -/
def Instr.row : Instr → OpcodeRow
  | .nop => ⟨0xFFFFFFFF#32, 0x00000000#32⟩
  | .push _ => ⟨0xFFFFFF00#32, 0x10000000#32⟩
  | .pushn _ => ⟨0xFFFF0000#32, 0x11000000#32⟩
  | .pop => ⟨0xFFFFFFFF#32, 0x12000000#32⟩
  | .popn _ => ⟨0xFFFF0000#32, 0x13000000#32⟩
  | .read _ => ⟨0xFFFF0000#32, 0x14000000#32⟩
  | .peek => ⟨0xFFFFFFFF#32, 0x15000000#32⟩
  | .peekn _ => ⟨0xFFFF0000#32, 0x16000000#32⟩
  | .index _ => ⟨0xFFFF0000#32, 0x17000000#32⟩
  | .dmasync _ => ⟨0xFFFF0000#32, 0x18000000#32⟩
  | .setrp _ => ⟨0xFFFF0000#32, 0x19000000#32⟩
  | .resize _ => ⟨0xFFFF0000#32, 0x1A000000#32⟩
  | .clear => ⟨0xFFFFFFFF#32, 0x1B000000#32⟩
  | .run => ⟨0xFFFFFFFF#32, 0x20000000#32⟩
  | .recv => ⟨0xFFFFFFFF#32, 0x21000000#32⟩
  | .setsof _ => ⟨0xFFFF0000#32, 0x22000000#32⟩
  | .clrsof => ⟨0xFFFFFFFF#32, 0x23000000#32⟩
  | .seteof _ => ⟨0xFFFF0000#32, 0x24000000#32⟩
  | .clreof => ⟨0xFFFFFFFF#32, 0x25000000#32⟩
  | .setlen _ => ⟨0xFFFF0000#32, 0x26000000#32⟩
  | .clrlen => ⟨0xFFFFFFFF#32, 0x27000000#32⟩
  | .frames => ⟨0xFFFFFFFF#32, 0x28000000#32⟩
  | .bytes => ⟨0xFFFFFFFF#32, 0x29000000#32⟩
  | .rdsr _ => ⟨0xFFFF0000#32, 0x30000000#32⟩

/-- How many input beats a word requires: those of its command, none where it is illegal (R63, R68). -/
def wordBeatCount (w : Word) : Nat :=
  match decode w with
  | .ok i => i.beatCount
  | .error _ => 0

/-- The command read from a row's word: `w` numbered as spec/opcode_table.json numbers it is the 32-bit command word itself
(log 17). -/
def decodeTableWord (nbits w : Nat) : Option Instr :=
  if nbits ≤ 32 ∧ w < 2 ^ nbits then
    match decode (BitVec.ofNat 32 w) with
    | .ok i => some i
    | .error _ => none
  else none

end Sys2Proof
end

