-- ==== Sys2Proof/Machine/State.lean ====
section
/-! DEFINITION. The state of RBFT (spec/10_state.md), of the environment agents the spec describes beside it
(spec/20_memory.md R44, spec/60_exceptions.md R170) and of the command channel (spec/30_encoding.md R60), as plain data; the
reasons a step can stop; the state after reset. -/

namespace Sys2Proof.Machine

/-- The storage array `mem` (R10): the cells some rule has written, strictly rising by index. A cell that is not listed holds
the unspecified value of R17: it reads as no value of its own, and a read draws a free one (log 3). -/
abbrev Memory := List Host.Cell

/-- The canonical form of a memory: indices strictly rise. No listed value can equal what an unlisted cell reads as, since
that is no value. -/
abbrev Memory.wf (m : Memory) : Prop := m.Pairwise fun c d => c.1 < d.1

/-- A queued frame (R25). `length` is "never stored apart from the payload". -/
structure Frame where
  payload : List Byte
  ts      : Word
deriving DecidableEq, Repr

/-- The status codes of R65. -/
inductive Status where
  | ok | full | empty | noframe | ignored | badop
deriving DecidableEq, Repr

/-- What RBFT returns for one command (R64, R66): the response word, the timestamp word where there is one, the output
beats. -/
structure Response where
  word  : Word
  ts    : Option Word
  beats : List Byte
deriving DecidableEq, Repr

/-- What the host observes (R195: the transactions) and the values of the DMA counter it reads (R44). -/
inductive Observation where
  /-- one transaction: the command word, the input beats, the response -/
  | transaction (word : Word) (beats : List Byte) (resp : Response)
  /-- a host read of `dmaRem` -/
  | dmaCounter (rem : Nat)
deriving DecidableEq, Repr

/-- What the environment can do (R9, R44 to R47, R180). -/
inductive Event where
  /-- the host presents a command word with its input beats (R60) -/
  | command (word : Word) (beats : List Byte)
  /-- the DMA agent's write step with the byte it received (R45) -/
  | dmaWrite (b : Byte)
  /-- the DMA agent's reload step (R46) -/
  | dmaReload
  /-- the host starts a DMA transfer of length `n` (R47) -/
  | dmaStart (n : Nat)
  /-- the host reads the DMA agent's remaining counter (R44) -/
  | dmaRead
  /-- hardware reset (R180) -/
  | reset
deriving DecidableEq, Repr

/-- The machine and its environment. `cap`, `rp`, `wp`, `sz`, `ldc` are counts over which every rule computes in the
integers and whose range an invariant keeps below 2^AW (R5, R16; log 2). -/
structure State where
  /-- the instance's parameters (R4, R27); no step writes them (log 1) -/
  params  : Params
  /-- storage (R10) -/
  mem     : Memory
  /-- capacity (R11) -/
  cap     : Nat
  /-- read cursor (R12) -/
  rp      : Nat
  /-- write cursor (R13) -/
  wp      : Nat
  /-- number of valid elements (R14) -/
  sz      : Nat
  /-- DMA shadow counter: writtenSoFar of the last reconciliation (R15, C4) -/
  ldc     : Nat
  /-- start-of-frame sequence (R19) -/
  sof     : List Byte
  /-- end-of-frame sequence (R20) -/
  eof     : List Byte
  /-- fixed expected length: 16 bits (R21, R134), although R4's row for AW lists it too. DESIGN CHOICE between the two,
  unsafe (log 20) -/
  xlen    : Half
  /-- a start delimiter has been consumed and its frame is open (R23) -/
  sofOpen : Bool
  /-- frame queue, head first (R25) -/
  fq      : List Frame
  /-- the DMA agent's transfer length (R44) -/
  dmaLen  : Nat
  /-- the DMA agent's remaining count (R44) -/
  dmaRem  : Nat
  /-- the tick source's last sample, below which it never falls (R170; log 4) -/
  tick    : Word
  /-- the model's own: tick samples taken so far (log 4) -/
  samples : Nat
  /-- the model's own: reads of the store made so far (log 3) -/
  draws   : Nat
  /-- the model's own: what the environment does next, in order (log 5) -/
  pending : List Event
  /-- the command word on the channel (R60, R61; log 10) -/
  cmdWord : Word
  /-- the input beats on the channel (R63; log 10) -/
  inBeats : List Byte
  /-- what the host has observed, oldest first (R195; log 10) -/
  trace   : List Observation
deriving DecidableEq, Repr

/-- Why the machine stops with a fault. RBFT itself has none (R160, R168). -/
inductive Fault where
  /-- Raised by the DMA agent's write step on a cell at or beyond CMAX, which does not exist (R10, R45). Safe: it cannot
  happen while `dmaRem ≤ dmaLen ≤ CMAX` (R44), which every step keeps (log 12). -/
  | noSuchCell
deriving DecidableEq, Repr

/-- Why a step has no meaning. -/
inductive Refusal where
  /-- No meaning yet; raised by no arm of this model. Safe. -/
  | notModelled (mnemonic : String)
  /-- A transaction whose number of input beats is not what its command word requires (R72, U6: "a model rejects the trace
  rather than guess"). Raised by every meaning before it looks at the state. Safe (log 7). -/
  | malformedTransaction
  /-- The environment presents a DMA write step with `dmaRem = 0`, or a reload step with `dmaRem ≠ 0` or `dmaLen = 0`: the
  agent's step is not enabled (R45, R46). Safe (log 9). -/
  | dmaStepNotEnabled
  /-- A DMA start with a length above CMAX, outside the range R44 gives `dmaLen`. Safe (log 9). -/
  | dmaLengthOutOfRange
deriving DecidableEq, Repr

/-- What one step, and each meaning, answers. -/
abbrev Result := Host.Outcome State Fault Refusal

/-- The state after hardware reset (R29), of the instance `Params.standard` (log 1), with the DMA agent not started (log 8)
and nothing pending. PREFILL is false in that instance, so no cell is listed. The reset of every instance is
`State.hardwareReset` (Machine/Environment.lean). -/
def State.reset : State :=
  { params := Params.standard
    mem := [], cap := Params.standard.cinit, rp := 0, wp := 0, sz := 0, ldc := 0
    sof := [], eof := [], xlen := 0#16, sofOpen := false, fq := []
    dmaLen := 0, dmaRem := 0, tick := 0#32, samples := 0, draws := 0
    pending := [], cmdWord := 0#32, inBeats := [], trace := [] }

end Sys2Proof.Machine
end

