-- ==== Sys2Proof/Machine/Ops.lean ====
section
/-! DEFINITION. The named operations over storage, cursors, the frame queue and the channel: the pseudocode primitives of
spec/00_scope.md R5 and R8. RBFT takes no exception and returns from none (spec/60_exceptions.md R160, R168): the operation
that reports a condition is `respond`. -/

namespace Sys2Proof.Machine

/-- `wrap(a)`: "`a mod cap` when cap > 0 and 0 when cap = 0", over the integers, never negative (R5). -/
def wrap (cap : Nat) (a : Int) : Nat := if cap = 0 then 0 else (a % (cap : Int)).toNat

/-! ### Storage -/

/-- `mem[a]`: the cell's value, or none where the cell holds the unspecified value (R8, R17). -/
def Memory.read (m : Memory) (a : Nat) : Option Byte := List.lookup a m

/-- `mem[a] <- v` (R8), keeping the indices strictly rising. -/
def Memory.write (m : Memory) (a : Nat) (v : Byte) : Memory :=
  match m with
  | [] => [(a, v)]
  | c :: rest =>
    if a < c.1 then (a, v) :: c :: rest
    else if a = c.1 then (a, v) :: rest
    else c :: Memory.write rest a v

/-- Storage whose cells from `a` on hold the bytes of a sequence and whose other cells are unspecified. -/
def Memory.ofBytes (a : Nat) (bs : List Byte) : Memory :=
  match bs with
  | [] => []
  | b :: rest => (a, b) :: Memory.ofBytes (a + 1) rest

/-- Storage after reset: EMPTY_VALUE in every cell if PREFILL, else unspecified (R17). -/
def Memory.initial (p : Params) : Memory :=
  if p.prefill then Memory.ofBytes 0 (List.replicate p.cmax p.emptyValue) else []

/-- One read of cell `a`: its value, or a free byte where it is unspecified (R17, U1). -/
def State.cell (s : State) (a : Nat) : Byte := (s.mem.read a).getD (Config.freeCell s.draws a)

/-- `MemRead(addr, n)`: n cells from `addr` on, wrapping at `cap` (R8). The state after it is `drawn`. -/
def State.memRead (s : State) (addr n : Nat) : List Byte :=
  (List.range n).map fun j => s.cell (wrap s.cap (addr + j : Nat))

/-- The state after one MemRead: the next one draws its own free bytes ("two reads of it need not agree", R17). Nothing the
spec names changes (R43). -/
def State.drawn (s : State) : State := { s with draws := s.draws + 1 }

/-- `mem[a] <- v` in a state. -/
def State.writeCell (s : State) (a : Nat) (v : Byte) : State := { s with mem := s.mem.write a v }

/-- `MemWrite(addr, n, v)` for the n elements of `vs` (R8): the j-th goes to cell `wrap(addr + j)`. -/
def State.memWrite (s : State) (addr : Nat) (vs : List Byte) : State :=
  match vs with
  | [] => s
  | v :: rest => (s.writeCell (wrap s.cap (addr : Nat)) v).memWrite (addr + 1) rest

/-! ### Cursors -/

/-- `drop(k)`: remove the k oldest elements; storage is not written (R8, R89). -/
def State.dropFront (s : State) (k : Nat) : State :=
  { s with rp := wrap s.cap (s.rp + k : Nat), sz := s.sz - k }

/-- `wp <- wrap(wp + k); sz <- sz + k`: k elements have been inserted (R80, R81, R89). -/
def State.advanceWrite (s : State) (k : Nat) : State :=
  { s with wp := wrap s.cap (s.wp + k : Nat), sz := s.sz + k }

/-- `Lseq`, the valid bytes, oldest first, as one read finds them (R8). -/
def State.lseq (s : State) : List Byte := s.memRead s.rp s.sz

/-! ### Search -/

/-- `find(S, B)`: the lowest index at which all of S matches B (R8, R145, D28). -/
def find (pat bs : List Byte) : Option Nat :=
  match bs with
  | [] => if pat = [] then some 0 else none
  | b :: rest => if pat.isPrefixOf (b :: rest) then some 0 else (find pat rest).map (· + 1)

/-! ### Frame queue and tick -/

/-- "a first-in first-out sequence of at most FQ_DEPTH frames" (R25): no room is left. -/
def State.fqFull (s : State) : Bool := s.fq.length == s.params.fqDepth

/-- `tick()`: one sample of the tick input, free but for the premise that samples never decrease (R170, U11; log 4). -/
def State.tickSample (s : State) : Word :=
  if Config.freeTick s.samples < s.tick then s.tick else Config.freeTick s.samples

/-- `fq <- fq ++ [frame(payload, ts = tick())]` (R140, R146). -/
def State.enqueue (s : State) (payload : List Byte) : State :=
  { s with
    fq := s.fq ++ [{ payload := payload, ts := s.tickSample }]
    tick := s.tickSample
    samples := s.samples + 1 }

/-- "`length` … always computes as |payload|" (R25). -/
def Frame.length (f : Frame) : Nat := f.payload.length

/-! ### The channel -/

/-- The code of a status, bits 31:28 of the response word (R65). -/
def Status.code : Status → BitVec 4
  | .ok => 0
  | .full => 1
  | .empty => 2
  | .noframe => 3
  | .ignored => 4
  | .badop => 5

/-- The response word: `st`, twelve zero bits, `val` (R64). -/
def responseWord (st : Status) (val : Half) : Word := st.code ++ 0#12 ++ val

/-- The status field of a response word, bits 31:28 (R64). -/
def Response.st (r : Response) : BitVec 4 := r.word.extractLsb' 28 4

/-- The value field of a response word, bits 15:0 (R64). -/
def Response.val (r : Response) : Half := r.word.extractLsb' 0 16

/-- The environment's next event is taken. -/
def State.takeEvent (s : State) (rest : List Event) : State := { s with pending := rest }

/-- The host presents a command word with its beats (R60). -/
def State.present (s : State) (w : Word) (beats : List Byte) (rest : List Event) : State :=
  { s with pending := rest, cmdWord := w, inBeats := beats }

/-- The transaction ends: the response is returned and all its input beats have been consumed (R60, R63, R195). -/
def State.reply (s : State) (r : Response) : State :=
  { s with trace := s.trace ++ [.transaction s.cmdWord s.inBeats r], inBeats := [] }

/-- `respond(st, val)`, the response word alone (R8, R64, R66). -/
def State.respond (s : State) (st : Status) (val : Nat) : Result :=
  .next (s.reply { word := responseWord st (BitVec.ofNat 16 val), ts := none, beats := [] })

/-- `respond(st, val); out(bs)` of READ and PEEKN (R66). -/
def State.respondBeats (s : State) (st : Status) (val : Nat) (bs : List Byte) : Result :=
  .next (s.reply { word := responseWord st (BitVec.ofNat 16 val), ts := none, beats := bs })

/-- The response of RECV: a timestamp word, "still present and … zero" when there is no frame, then the beats (R66, R150). -/
def State.respondFrame (s : State) (st : Status) (val : Nat) (ts : Word) (bs : List Byte) : Result :=
  .next (s.reply { word := responseWord st (BitVec.ofNat 16 val), ts := some ts, beats := bs })

/-- The gate every command passes: a transaction with another number of beats than its command takes is malformed and has no
step (R63, R72). -/
def State.transact (s : State) (n : Nat) (body : Result) : Result :=
  if s.inBeats.length = n then body else .refused .malformedTransaction

/-- An illegal command word "changes no state, consumes its input beats if any were sent, and returns `respond(BADOP, 0)`"
(R68). -/
def illegalCommand (s : State) : Result := s.respond .badop 0

end Sys2Proof.Machine
end

