-- ==== Sys2Proof/Machine/Operands.lean ====
section
/-! DEFINITION. The two addressing modes (spec/40_ring_access.md R89) and the use of the operand field (spec/30_encoding.md
R62). -/

namespace Sys2Proof.Machine

/-- Read side: logical index i addresses the cell `wrap(rp + i)` (R89). -/
def State.readAddr (s : State) (i : Nat) : Nat := wrap s.cap (s.rp + i : Nat)

/-- Write side: offset j addresses the cell `wrap(wp + j)` (R89). -/
def State.writeAddr (s : State) (j : Nat) : Nat := wrap s.cap (s.wp + j : Nat)

/-- `zext_16` of an element, as a result value (R6, R64). -/
def zext16 (v : Byte) : Nat := v.toNat

/-- The room left: the write side has offsets 0 ≤ j < cap − sz (R89). -/
def State.room (s : State) : Nat := s.cap - s.sz

end Sys2Proof.Machine
end

