-- ==== Sys2Proof/Machine/DmaReconcile.lean ====
section
/-! DEFINITION. The reconciliation family: DMASYNC, SETRP (spec/41_dma_reconciliation.md R100, R103). -/

namespace Sys2Proof.Machine

/-- Steps 1 to 3 of the reconciliation, over the integers: `w = cap − rem`; the local `l` is `ldc`, less `cap` when
`w < ldc`; `diff = w − l` (R100, C10). -/
def dmaDiff (cap ldc rem : Nat) : Int :=
  let w : Int := (cap : Int) - rem
  let l : Int := if w < ldc then (ldc : Int) - cap else ldc
  w - l

/-- Steps 4 to 6: advance `wp` and `sz` by d, discard the oldest on overrun, store `writtenSoFar` (R100, R102). -/
def State.reconcile (s : State) (rem : Nat) (d : Int) : State :=
  let n : Int := (s.sz : Int) + d
  let lost : Bool := decide ((s.cap : Int) < n)
  { s with
    wp := wrap s.cap ((s.wp : Int) + d)
    rp := if lost then wrap s.cap ((s.rp : Int) + (n - s.cap)) else s.rp
    sz := if lost then s.cap else n.toNat
    ldc := s.cap - rem }

/-- DMASYNC rem (R100): IGNORED when rem > cap (D6), else the reconciliation; an overrun is not reported (R163). -/
def execDmasync (rem : Half) (s : State) : Result :=
  s.transact 0 <|
    if s.cap < rem.toNat then s.respond .ignored 0
    else
      let d := dmaDiff s.cap s.ldc rem.toNat
      (s.reconcile rem.toNat d).respond .ok d.toNat

/-- SETRP pos (R103): relocate the read cursor and recompute the size; IGNORED when pos ≥ cap (D11). -/
def execSetrp (pos : Half) (s : State) : Result :=
  s.transact 0 <|
    if s.cap ≤ pos.toNat then s.respond .ignored 0
    else
      let n := wrap s.cap ((s.wp : Int) - pos.toNat)
      { s with rp := pos.toNat, sz := n }.respond .ok n

end Sys2Proof.Machine
end

