-- ==== Sys2Proof/Machine/FrameConfig.lean ====
section
/-! DEFINITION. The triage configuration family: SETSOF, CLRSOF, SETEOF, CLREOF, SETLEN, CLRLEN
(spec/43_frame_config.md R130 to R135). -/

namespace Sys2Proof.Machine

/-- Write the start-of-frame sequence; a new delimiter starts the search afresh (R130, R131). -/
def State.setSof (s : State) (bs : List Byte) : State := { s with sof := bs, sofOpen := false }

/-- Write the end-of-frame sequence (R132, R133). -/
def State.setEof (s : State) (bs : List Byte) : State := { s with eof := bs }

/-- Write the fixed expected length (R134, R135). -/
def State.setXlen (s : State) (n : Half) : State := { s with xlen := n }

/-- SETSOF len, in (R130): IGNORED above DMAXLEN, the beats consumed all the same. -/
def execSetsof (len : Half) (s : State) : Result :=
  s.transact len.toNat <|
    if s.params.dmaxlen < len.toNat then s.respond .ignored 0
    else (s.setSof s.inBeats).respond .ok len.toNat

/-- CLRSOF (R131). -/
def execClrsof (s : State) : Result :=
  s.transact 0 <| (s.setSof []).respond .ok 0

/-- SETEOF len, in (R132): IGNORED above DMAXLEN, the beats consumed all the same; `sofOpen` untouched. -/
def execSeteof (len : Half) (s : State) : Result :=
  s.transact len.toNat <|
    if s.params.dmaxlen < len.toNat then s.respond .ignored 0
    else (s.setEof s.inBeats).respond .ok len.toNat

/-- CLREOF (R133). -/
def execClreof (s : State) : Result :=
  s.transact 0 <| (s.setEof []).respond .ok 0

/-- SETLEN len (R134): every 16-bit value is accepted. -/
def execSetlen (len : Half) (s : State) : Result :=
  s.transact 0 <| (s.setXlen len).respond .ok len.toNat

/-- CLRLEN (R135). -/
def execClrlen (s : State) : Result :=
  s.transact 0 <| (s.setXlen 0#16).respond .ok 0

end Sys2Proof.Machine
end

