-- ==== Sys2Proof/Machine/Flags.lean ====
section
/-! DEFINITION. The condition flags EMPTY and FULL, the framing mode and the read-only status registers, all pure functions
of the state (spec/10_state.md R18, R22, R26). -/

namespace Sys2Proof.Machine

/-- `EMPTY = (sz = 0)` (R18). -/
def State.isEmpty (s : State) : Bool := s.sz == 0

/-- `FULL = (sz = cap)` (R18). -/
def State.isFull (s : State) : Bool := s.sz == s.cap

/-- The four framing modes (R22). -/
inductive Mode where
  | none | fixed | eof | sof
deriving DecidableEq, Repr

/-- `mode = SOF if |sof| > 0; else EOF if |eof| > 0; else FIXED if xlen > 0; else NONE` (R22). -/
def State.mode (s : State) : Mode :=
  if 0 < s.sof.length then .sof
  else if 0 < s.eof.length then .eof
  else if 0 < s.xlen.toNat then .fixed
  else .none

/-- MODE, bits 6:5 of STATUS: "0 NONE, 1 FIXED, 2 EOF, 3 SOF" (R26). -/
def Mode.code : Mode → BitVec 2
  | .none => 0
  | .fixed => 1
  | .eof => 2
  | .sof => 3

/-- Status register 0 (R26): bit 0 EMPTY, 1 FULL, 2 SOFOPEN, 3 FQEMPTY, 4 FQFULL, 6:5 MODE, 15:7 zero. -/
def State.statusWord (s : State) : Half :=
  0#9 ++ s.mode.code ++ BitVec.ofBool s.fqFull ++ BitVec.ofBool s.fq.isEmpty ++ BitVec.ofBool s.sofOpen
    ++ BitVec.ofBool s.isFull ++ BitVec.ofBool s.isEmpty

/-- HEADLEN: "the length the next RECV will return", 0 on an empty queue (R26). -/
def State.headLen (s : State) : Nat :=
  match s.fq with
  | [] => 0
  | f :: _ => f.length

/-- The status registers 0 to 14 by number; "numbers 15 and above are undefined" (R26). -/
def State.statusRegister (s : State) (r : Nat) : Option Nat :=
  match r with
  | 0 => some s.statusWord.toNat
  | 1 => some s.cap
  | 2 => some s.sz
  | 3 => some s.rp
  | 4 => some s.wp
  | 5 => some s.ldc
  | 6 => some s.xlen.toNat
  | 7 => some s.sof.length
  | 8 => some s.eof.length
  | 9 => some s.fq.length
  | 10 => some s.params.cmax
  | 11 => some s.params.dmaxlen
  | 12 => some s.params.fqDepth
  | 13 => some s.params.emptyValue.toNat
  | 14 => some s.headLen
  | _ => none

end Sys2Proof.Machine
end

