-- ==== Sys2Proof/Machine/FrameTriage.lean ====
section
/-! DEFINITION. The frame triage family: RUN, RECV, FRAMES, BYTES (spec/44_frame_triage.md R140 to R152). -/

namespace Sys2Proof.Machine

/-- What one pass of the scan decides (the `case` of R140). -/
inductive Pass where
  /-- exit the loop -/
  | stop
  /-- drop `k` bytes of noise and start delimiter, open the frame -/
  | openFrame (k : Nat)
  /-- a complete frame: payload B[0..q), c bytes to be consumed -/
  | frame (q c : Nat)
deriving DecidableEq, Repr

/-- The case analysis of R140 on the bytes B of this pass (R141 to R144). -/
def State.decidePass (s : State) (md : Mode) (b : List Byte) : Pass :=
  match md with
  | .none => .stop
  | .fixed => if s.sz < s.xlen.toNat then .stop else .frame s.xlen.toNat s.xlen.toNat
  | .eof =>
    match find s.eof b with
    | none => .stop
    | some q => .frame q (q + s.eof.length)
  | .sof =>
    match find s.sof b with
    | none => .stop
    | some q => if s.sofOpen then .frame q (q + s.sof.length) else .openFrame (q + s.sof.length)

/-- "`drop(q + |sof|); sofOpen <- true`": the noise and the first delimiter leave the ring (R141). -/
def State.openFrameAfter (s : State) (k : Nat) : State := { s.dropFront k with sofOpen := true }

/-- One extraction (R146): queue the payload with a tick sample, then drop payload and delimiter. -/
def State.extract (s : State) (payload : List Byte) (c : Nat) : State := (s.enqueue payload).dropFront c

/-- The loop of R140 with the mode fixed: at most `fuel` passes; answers the state, the number of frames appended and the
status. -/
def scan (md : Mode) (fuel : Nat) (s : State) (n : Nat) : State × Nat × Status :=
  match fuel with
  | 0 => (s, n, .ok)
  | fuel + 1 =>
    match s.decidePass md s.lseq with
    | .stop => (s.drawn, n, .ok)
    | .openFrame k => scan md fuel (s.drawn.openFrameAfter k) n
    | .frame q c =>
      if s.fqFull then (s.drawn, n, .full)
      else scan md fuel (s.drawn.extract (s.lseq.take q) c) (n + 1)

/-- RUN (R140): the scan to exhaustion; `val` is the number of frames appended. sz + 1 passes always suffice (R147; log 14). -/
def execRun (s : State) : Result :=
  s.transact 0 <|
    let out := scan s.mode (s.sz + 1) s 0
    out.1.respond out.2.2 out.2.1

/-- RECV (R150): the oldest frame leaves the queue; NOFRAME with a zero timestamp word when there is none. -/
def execRecv (s : State) : Result :=
  s.transact 0 <|
    match s.fq with
    | [] => s.respondFrame .noframe 0 0#32 []
    | f :: rest => { s with fq := rest }.respondFrame .ok f.length f.ts f.payload

/-- FRAMES (R151). -/
def execFrames (s : State) : Result :=
  s.transact 0 <| s.respond .ok s.fq.length

/-- BYTES (R152). -/
def execBytes (s : State) : Result :=
  s.transact 0 <| s.respond .ok s.sz

end Sys2Proof.Machine
end

