-- ==== Sys2Proof/Machine/Management.lean ====
section
/-! DEFINITION. The management family: RESIZE, CLEAR, NOP, RDSR (spec/42_management.md R120 to R123). -/

namespace Sys2Proof.Machine

/-- The effect of a valid RESIZE (R120): the k oldest elements move to cells 0 .. k−1 in logical order, every other cell
becomes unspecified, the cursors are relinearised and `ldc` is zeroed. `keep` is read with the old `cap` and `rp`. -/
def State.resized (s : State) (n : Nat) : State :=
  let k := min s.sz n
  let keep := s.memRead s.rp k
  { s.drawn with
    cap := n, mem := Memory.ofBytes 0 keep, rp := 0, sz := k, wp := wrap n (k : Nat), ldc := 0 }

/-- RESIZE newcap (R120): IGNORED with the unchanged capacity above CMAX. -/
def execResize (newcap : Half) (s : State) : Result :=
  s.transact 0 <|
    if s.params.cmax < newcap.toNat then s.respond .ignored s.cap
    else (s.resized newcap.toNat).respond .ok newcap.toNat

/-- CLEAR, alias RESET (R121): `sz`, `rp`, `wp` and `sofOpen` alone. -/
def execClear (s : State) : Result :=
  s.transact 0 <|
    { s with sz := 0, rp := 0, wp := 0, sofOpen := false }.respond .ok 0

/-- NOP (R122). -/
def execNop (s : State) : Result :=
  s.transact 0 <| s.respond .ok 0

/-- RDSR r (R123): status register r, IGNORED above 14. -/
def execRdsr (r : Half) (s : State) : Result :=
  s.transact 0 <|
    match s.statusRegister r.toNat with
    | some v => s.respond .ok v
    | none => s.respond .ignored 0

end Sys2Proof.Machine
end

