-- ==== Sys2Proof/Machine/RingAccess.lean ====
section
/-! DEFINITION. The ring access family: PUSH, PUSHN, POP, POPN, READ, PEEK, PEEKN, INDEX (spec/40_ring_access.md R80 to R87). -/

namespace Sys2Proof.Machine

/-- PUSH v (R80): one element at the write cursor if not Full, "never overwrites". -/
def execPush (v : Byte) (s : State) : Result :=
  s.transact 0 <|
    if s.isFull then s.respond .full 0
    else ((s.writeCell (s.writeAddr 0) v).advanceWrite 1).respond .ok 1

/-- PUSHN len, in (R81): the first `min(len, cap − sz)` beats go in, the rest are consumed and dropped. -/
def execPushn (len : Half) (s : State) : Result :=
  s.transact len.toNat <|
    let k := min len.toNat s.room
    ((s.memWrite s.wp (s.inBeats.take k)).advanceWrite k).respond (if k = len.toNat then .ok else .full) k

/-- POP (R82): remove and return the oldest element. -/
def execPop (s : State) : Result :=
  s.transact 0 <|
    if s.isEmpty then s.respond .empty 0
    else (s.drawn.dropFront 1).respond .ok (zext16 (s.cell (s.readAddr 0)))

/-- POPN n (R83): remove up to n elements without returning them. -/
def execPopn (n : Half) (s : State) : Result :=
  s.transact 0 <|
    let k := min n.toNat s.sz
    (s.dropFront k).respond .ok k

/-- READ len (R84): copy out up to len elements in logical order and remove them. -/
def execRead (len : Half) (s : State) : Result :=
  s.transact 0 <|
    let k := min len.toNat s.sz
    (s.drawn.dropFront k).respondBeats .ok k (s.memRead s.rp k)

/-- PEEK (R85): the oldest element, nothing changes. -/
def execPeek (s : State) : Result :=
  s.transact 0 <|
    if s.isEmpty then s.respond .empty 0
    else s.drawn.respond .ok (zext16 (s.cell (s.readAddr 0)))

/-- PEEKN len (R86): up to len elements in logical order, nothing changes. -/
def execPeekn (len : Half) (s : State) : Result :=
  s.transact 0 <|
    let k := min len.toNat s.sz
    s.drawn.respondBeats .ok k (s.memRead s.rp k)

/-- INDEX i (R87): the i-th logical element, or EMPTY_VALUE at and beyond `sz` (C1). -/
def execIndex (i : Half) (s : State) : Result :=
  s.transact 0 <|
    if i.toNat < s.sz then s.drawn.respond .ok (zext16 (s.cell (s.readAddr i.toNat)))
    else s.respond .ok (zext16 s.params.emptyValue)

end Sys2Proof.Machine
end

