-- ==== Sys2Proof/Machine/Dispatch.lean ====
section
/-! DEFINITION. One arm per command: its meaning. -/

namespace Sys2Proof.Machine

-- The meaning of a command in a state whose channel carries its transaction (spec/00_scope.md R9 (1)).
def exec (i : Instr) (s : State) : Host.Outcome State Fault Refusal :=
  match i with
  | .nop => Sys2Proof.Machine.execNop s
  | .push v => Sys2Proof.Machine.execPush v s
  | .pushn len => Sys2Proof.Machine.execPushn len s
  | .pop => Sys2Proof.Machine.execPop s
  | .popn n => Sys2Proof.Machine.execPopn n s
  | .read len => Sys2Proof.Machine.execRead len s
  | .peek => Sys2Proof.Machine.execPeek s
  | .peekn len => Sys2Proof.Machine.execPeekn len s
  | .index k => Sys2Proof.Machine.execIndex k s
  | .dmasync rem => Sys2Proof.Machine.execDmasync rem s
  | .setrp pos => Sys2Proof.Machine.execSetrp pos s
  | .resize newcap => Sys2Proof.Machine.execResize newcap s
  | .clear => Sys2Proof.Machine.execClear s
  | .run => Sys2Proof.Machine.execRun s
  | .recv => Sys2Proof.Machine.execRecv s
  | .setsof len => Sys2Proof.Machine.execSetsof len s
  | .clrsof => Sys2Proof.Machine.execClrsof s
  | .seteof len => Sys2Proof.Machine.execSeteof len s
  | .clreof => Sys2Proof.Machine.execClreof s
  | .setlen len => Sys2Proof.Machine.execSetlen len s
  | .clrlen => Sys2Proof.Machine.execClrlen s
  | .frames => Sys2Proof.Machine.execFrames s
  | .bytes => Sys2Proof.Machine.execBytes s
  | .rdsr r => Sys2Proof.Machine.execRdsr r s

end Sys2Proof.Machine
end

