-- ==== Sys2Proof/Machine/Environment.lean ====
section
/-! DEFINITION. The steps of the environment: the DMA agent (spec/20_memory.md R44 to R47) and hardware reset
(spec/70_reset_and_hazards.md R180, spec/10_state.md R29). -/

namespace Sys2Proof.Machine

/-- The cell the agent writes next: `dmaLen − dmaRem` (R45). -/
def State.dmaIndex (s : State) : Nat := s.dmaLen - s.dmaRem

/-- The write step, enabled when `dmaRem ≥ 1`: "`mem[dmaLen − dmaRem] <- b; then dmaRem <- dmaRem − 1`" (R45). It writes no
RBFT register. -/
def dmaWrite (b : Byte) (s : State) : Result :=
  if s.dmaRem = 0 then .refused .dmaStepNotEnabled
  else if s.dmaIndex < s.params.cmax then
    .next { s.writeCell s.dmaIndex b with dmaRem := s.dmaRem - 1 }
  else .fault .noSuchCell

/-- The reload step, enabled when `dmaRem = 0` and `dmaLen ≥ 1` (R46). -/
def dmaReload (s : State) : Result :=
  if s.dmaRem = 0 ∧ 1 ≤ s.dmaLen then .next { s with dmaRem := s.dmaLen }
  else .refused .dmaStepNotEnabled

/-- The host starts a transfer of length n, 0 .. CMAX (R44, R47). -/
def dmaStart (n : Nat) (s : State) : Result :=
  if n ≤ s.params.cmax then .next { s with dmaLen := n, dmaRem := n }
  else .refused .dmaLengthOutOfRange

/-- "A host read of `dmaRem` returns its current value and changes nothing" (R44). -/
def dmaRead (s : State) : Result :=
  .next { s with trace := s.trace ++ [.dmaCounter s.dmaRem] }

/-- Hardware reset (R180, R29): the whole RBFT state becomes the reset state of its instance. The DMA agent is not touched;
neither are the tick source, the free values drawn so far and the host's side of the channel (log 13). -/
def State.hardwareReset (s : State) : State :=
  { s with
    mem := Memory.initial s.params, cap := s.params.cinit, rp := 0, wp := 0, sz := 0, ldc := 0
    sof := [], eof := [], xlen := 0#16, sofOpen := false, fq := [] }

end Sys2Proof.Machine
end

