-- ==== Sys2Proof/Machine/Step.lean ====
section
/-! DEFINITION. One step (spec/00_scope.md R9): the environment's next event, which is a command of the host, a step of the DMA
agent, or hardware reset. RBFT fetches no instructions (spec/10_state.md R24): the command comes over the channel. -/

namespace Sys2Proof.Machine

/-- One step of the machine. With nothing pending RBFT waits and nothing changes (R9, R180; log 5). -/
def step (s : State) : Host.Outcome State Fault Refusal :=
  match s.pending with
  | [] => .next s
  | .command w beats :: rest =>
    match decode w with
    | .ok i => exec i (s.present w beats rest)
    | .error _ => illegalCommand (s.present w beats rest)
  | .dmaWrite b :: rest => dmaWrite b (s.takeEvent rest)
  | .dmaReload :: rest => dmaReload (s.takeEvent rest)
  | .dmaStart n :: rest => dmaStart n (s.takeEvent rest)
  | .dmaRead :: rest => dmaRead (s.takeEvent rest)
  | .reset :: rest => .next (s.takeEvent rest).hardwareReset

/-- The state whose very next step is the transaction of the command word w, with as many input beats as the word requires,
each zero (log 6). -/
def State.withFetchWord (s : State) (nbits w : Nat) : State :=
  let word := BitVec.ofNat 32 (w % 2 ^ nbits)
  { s with pending := .command word (List.replicate (wordBeatCount word) 0#8) :: s.pending }

end Sys2Proof.Machine
end

