-- ==== Sys2Proof/Safety.lean ====
section
/-! DEFINITION. The terms in which statements speak: the invariants of spec/10_state.md R16, the logical content of the ring,
what a command leaves unchanged, coherence with the DMA agent (spec/41_dma_reconciliation.md R104). -/

namespace Sys2Proof.Machine

/-! ### Invariants (R16) -/

/-- I1, I2, I3, I5, I6 of R16: the cursors, the count and the shadow counter. -/
abbrev RingInv (s : State) : Prop :=
  s.sz ≤ s.cap ∧ s.wp = wrap s.cap (s.rp + s.sz : Nat) ∧ (0 < s.cap → s.rp < s.cap ∧ s.wp < s.cap)
    ∧ (s.cap = 0 → s.rp = 0 ∧ s.wp = 0) ∧ s.ldc ≤ s.cap ∧ s.cap ≤ s.params.cmax

/-- The first half of I7 of R16: the delimiters fit. -/
abbrev ConfigInv (s : State) : Prop := s.sof.length ≤ s.params.dmaxlen ∧ s.eof.length ≤ s.params.dmaxlen

/-- The second half of I7 of R16: the frame queue and every queued payload fit. -/
abbrev QueueInv (s : State) : Prop :=
  s.fq.length ≤ s.params.fqDepth ∧ ∀ f ∈ s.fq, f.payload.length ≤ s.params.cmax

/-- Timestamps never decrease along the queue, nor against the tick source (R25, R146, R170). -/
abbrev TickInv (s : State) : Prop :=
  (s.fq.Pairwise fun f g => f.ts ≤ g.ts) ∧ ∀ f ∈ s.fq, f.ts ≤ s.tick

/-- The DMA agent's variables are in range: 0 ≤ dmaRem ≤ dmaLen ≤ CMAX (R44). -/
abbrev DmaInv (s : State) : Prop := s.dmaRem ≤ s.dmaLen ∧ s.dmaLen ≤ s.params.cmax

/-- Storage is in its canonical form and lists only cells that exist (R10). -/
abbrev StoreInv (s : State) : Prop := s.mem.wf ∧ ∀ c ∈ s.mem, c.1 < s.params.cmax

/-- The invariant of the machine: R16's I1 to I7 (I4 is the definition of the flags), the parameters' ranges (R4), and the
ranges of storage, timestamps and the DMA agent. -/
abbrev Inv (s : State) : Prop :=
  s.params.wf ∧ RingInv s ∧ ConfigInv s ∧ QueueInv s ∧ TickInv s ∧ DmaInv s ∧ StoreInv s

/-! ### What the ring holds -/

/-- `Lseq` before any free value is drawn: each valid element, oldest first, none where its cell is unspecified (R8, R17). -/
def State.content (s : State) : List (Option Byte) :=
  (List.range s.sz).map fun i => s.mem.read (s.readAddr i)

/-- Bytes read where the ring holds a content: they are the specified elements; an unspecified element may be any byte (U1). -/
abbrev Agrees (bs : List Byte) (c : List (Option Byte)) : Prop :=
  List.Forall₂ (fun b o => ∀ x, o = some x → b = x) bs c

/-- The bytes of a sequence are cut by a delimiter into payloads, each ended by the first occurrence of the delimiter, and a
rest (R141, R142, R145). -/
def Cut (delim bs : List Byte) (payloads : List (List Byte)) (rest : List Byte) : Prop :=
  bs = (payloads.map (· ++ delim)).flatten ++ rest ∧ ∀ p ∈ payloads, find delim (p ++ delim) = some p.length

/-! ### Responses -/

/-- The transaction on the channel ended with the response r, and its beats are consumed. -/
abbrev Answered (s t : State) (r : Response) : Prop :=
  t.trace = s.trace ++ [.transaction s.cmdWord s.inBeats r] ∧ t.inBeats = []

/-- A response of one word (R64, R66). -/
def plain (st : Status) (val : Nat) : Response :=
  { word := responseWord st (BitVec.ofNat 16 val), ts := none, beats := [] }

/-- A response of one word and output beats (R66). -/
def withBeats (st : Status) (val : Nat) (bs : List Byte) : Response :=
  { word := responseWord st (BitVec.ofNat 16 val), ts := none, beats := bs }

/-- RECV's response: a word, a timestamp word, output beats (R66). -/
def withFrame (st : Status) (val : Nat) (ts : Word) (bs : List Byte) : Response :=
  { word := responseWord st (BitVec.ofNat 16 val), ts := some ts, beats := bs }

/-! ### Frames: what stays as it was -/

/-- Every cell of storage reads as before. -/
abbrev SameStore (s t : State) : Prop := ∀ a, t.mem.read a = s.mem.read a

/-- The cursors and the count. -/
abbrev SameCursors (s t : State) : Prop := t.rp = s.rp ∧ t.wp = s.wp ∧ t.sz = s.sz

/-- The capacity and the DMA shadow counter. -/
abbrev SameShape (s t : State) : Prop := t.cap = s.cap ∧ t.ldc = s.ldc

/-- The triage configuration. -/
abbrev SameConfig (s t : State) : Prop := t.sof = s.sof ∧ t.eof = s.eof ∧ t.xlen = s.xlen

/-- The hidden bit and the frame queue. -/
abbrev SameFrames (s t : State) : Prop := t.sofOpen = s.sofOpen ∧ t.fq = s.fq

/-- The parameters, the DMA agent, what the environment does next and the command word on the channel. -/
abbrev SameAgents (s t : State) : Prop :=
  t.params = s.params ∧ t.dmaLen = s.dmaLen ∧ t.dmaRem = s.dmaRem ∧ t.pending = s.pending ∧ t.cmdWord = s.cmdWord

/-- The agents and the tick source. -/
abbrev SameWorld (s t : State) : Prop := SameAgents s t ∧ t.tick = s.tick ∧ t.samples = s.samples

/-- Nothing of RBFT and nothing of its environment has changed but the channel and the count of reads. -/
abbrev Unchanged (s t : State) : Prop :=
  SameStore s t ∧ SameCursors s t ∧ SameShape s t ∧ SameConfig s t ∧ SameFrames s t ∧ SameWorld s t

/-! ### Registers as a host event leaves them -/

/-- Everything of RBFT but storage, and what the host has observed, is as it was. -/
abbrev SameRegisters (s t : State) : Prop :=
  SameCursors s t ∧ SameShape s t ∧ SameConfig s t ∧ SameFrames s t ∧ t.trace = s.trace ∧ t.inBeats = s.inBeats
    ∧ t.cmdWord = s.cmdWord ∧ t.params = s.params ∧ t.tick = s.tick

/-! ### Coherence with the DMA agent (R104) -/

/-- RBFT and the DMA agent are coherent with u bytes outstanding: bytes written since the host read the counter value it
passed to the last DMASYNC that answered OK (R104). The last clause is what "U is the number of write steps" says where the
position alone does not: from a reading of cap (`ldc` = 0) the counter comes to stand at 0 only by cap writes (log 18). -/
abbrev Coherent (s : State) (u : Nat) : Prop :=
  0 < s.cap ∧ s.dmaLen = s.cap ∧ s.wp = wrap s.cap (s.ldc : Nat)
    ∧ wrap s.cap ((s.dmaLen : Int) - s.dmaRem) = wrap s.cap (s.ldc + u : Nat)
    ∧ (s.ldc = 0 → s.dmaRem = 0 → s.cap ≤ u)

/-- The agent's steps that receive the bytes of a sequence, the counter standing at `rem` in a transfer of length `len`: a
reload where the counter stands at 0, then the write (R45, R46). -/
def dmaBurst (len rem : Nat) (bs : List Byte) : List Event :=
  match bs with
  | [] => []
  | b :: rest =>
    match rem with
    | 0 => .dmaReload :: .dmaWrite b :: dmaBurst len (len - 1) rest
    | rem + 1 => .dmaWrite b :: dmaBurst len rem rest

/-! ### Families and sequences of commands -/

/-- The ring access family (spec/40_ring_access.md). -/
def Access : Instr → Bool
  | .push _ | .pushn _ | .pop | .popn _ | .read _ | .peek | .peekn _ | .index _ => true
  | .dmasync _ | .setrp _ | .resize _ | .clear | .nop | .rdsr _ => false
  | .setsof _ | .clrsof | .seteof _ | .clreof | .setlen _ | .clrlen | .run | .recv | .frames | .bytes => false

/-- The elements a command of the access family accepted, by the response to it (R88). -/
def accepted : Instr → List Byte → Response → List Byte
  | .push v, _, r => if r.st = Status.ok.code then [v] else []
  | .pushn _, beats, r => beats.take r.val.toNat
  | _, _, _ => []

/-- How many elements a command of the access family removed, by the response to it (R88). -/
def removed : Instr → Response → Nat
  | .pop, r => if r.st = Status.ok.code then 1 else 0
  | .popn _, r => r.val.toNat
  | .read _, r => r.val.toNat
  | _, _ => 0

/-- The elements a command of the access family returned and removed, by the response to it (R88). -/
def returned : Instr → Response → List Byte
  | .pop, r => if r.st = Status.ok.code then [r.val.setWidth 8] else []
  | .read _, r => r.beats
  | _, _ => []

/-- One PUSH after another of the elements of a sequence, with no beats on the channel (R81). -/
def pushEach (bs : List Byte) (s : State) : State :=
  match bs with
  | [] => s
  | b :: rest =>
    match exec (.push b) { s with inBeats := [] } with
    | .next t => pushEach rest t
    | .fault _ => s
    | .refused _ => s

/-- A sequence of transactions as the host presents it. -/
def commands (cs : List (Instr × List Byte)) : List Event := cs.map fun c => .command (encode c.1) c.2

/-- What the host observes of a sequence of transactions and their responses. -/
def transactions (cs : List (Instr × List Byte)) (rs : List Response) : List Observation :=
  List.zipWith (fun c r => .transaction (encode c.1) c.2 r) cs rs

end Sys2Proof.Machine
end

