-- ==== Sys2Proof/Certificates/Slice0/Obligations.lean ====
section
/-! DEFINITION. The statements for the provers. A statement about one command speaks of `exec` in a state whose channel carries
the transaction's beats; `StepRunsTheDecodedCommand` carries it to `step`. Every statement over states holds for every value of
the parameters, which stand in the state. -/

open Sys2Proof Sys2Proof.Machine

/-! ### Command words -/

/-- Words written out from the encodings of R61, R67 and R68, one or more a family, with the illegal ones of
95_test_vectors.md V90 to V97. -/
def Obligations.SampleWordsDecode : Prop :=
  decode 0x00000000#32 = .ok .nop ∧ decode 0x10000004#32 = .ok (.push 4#8) ∧ decode 0x11000003#32 = .ok (.pushn 3#16)
    ∧ decode 0x12000000#32 = .ok .pop ∧ decode 0x1300FFFF#32 = .ok (.popn 0xFFFF#16)
    ∧ decode 0x18000005#32 = .ok (.dmasync 5#16) ∧ decode 0x19000006#32 = .ok (.setrp 6#16)
    ∧ decode 0x1A000003#32 = .ok (.resize 3#16) ∧ decode 0x20000000#32 = .ok .run ∧ decode 0x21000000#32 = .ok .recv
    ∧ decode 0x22000003#32 = .ok (.setsof 3#16) ∧ decode 0x2600000A#32 = .ok (.setlen 10#16)
    ∧ decode 0x3000000F#32 = .ok (.rdsr 15#16)
    ∧ decode 0x01000000#32 = .error (.unknownOpcode 0x01#8) ∧ decode 0x10010005#32 = .error (.reservedNotZero 0x01#8)
    ∧ decode 0x10000105#32 = .error (.elementTooWide 0x0105#16) ∧ decode 0x12000001#32 = .error (.operandNotZero 1#16)

/-- Decode and encode agree on every command with every operand. -/
def Obligations.DecodeOfEncode : Prop := ∀ i : Instr, decode (encode i) = .ok i

/-- Each legal word stands for one command: encoding what was decoded gives the word back. -/
def Obligations.EncodeOfDecode : Prop := ∀ (w : Word) (i : Instr), decode w = .ok i → encode i = w

/-- R67: mask and match decide the command. -/
def Obligations.MaskAndMatchDecideTheCommand : Prop :=
  ∀ (w : Word) (j : Instr), w &&& j.row.mask = j.row.value ↔ ∃ i, decode w = .ok i ∧ i.row = j.row

/-- R68, which words are illegal, and what the step does with one: BADOP, no change, no extra output, its beats consumed. -/
def Obligations.IllegalWordsAnswerBadop : Prop :=
  (∀ w : Word, (∃ e, decode w = .error e) ↔
    (opField w ∉ [0x00#8, 0x10#8, 0x11#8, 0x12#8, 0x13#8, 0x14#8, 0x15#8, 0x16#8, 0x17#8, 0x18#8, 0x19#8, 0x1A#8, 0x1B#8,
        0x20#8, 0x21#8, 0x22#8, 0x23#8, 0x24#8, 0x25#8, 0x26#8, 0x27#8, 0x28#8, 0x29#8, 0x30#8])
      ∨ zField w ≠ 0#8
      ∨ (opField w ∈ [0x00#8, 0x12#8, 0x15#8, 0x1B#8, 0x20#8, 0x21#8, 0x23#8, 0x25#8, 0x27#8, 0x28#8, 0x29#8] ∧ immField w ≠ 0#16)
      ∨ (opField w = 0x10#8 ∧ 256 ≤ (immField w).toNat)) ∧
  ∀ (s : State) (w : Word) (beats : List Byte) (rest : List Event) (e : DecodeError),
    s.pending = .command w beats :: rest → decode w = .error e →
      ∃ t, step s = .next t ∧ Answered (s.present w beats rest) t (plain .badop 0) ∧ Unchanged (s.present w beats rest) t

/-! ### Transactions and steps -/

/-- A command at the head of what is pending runs as its decoded command, in the state whose channel carries its word and
beats; and `withFetchWord` places exactly such a transaction. -/
def Obligations.StepRunsTheDecodedCommand : Prop :=
  (∀ (s : State) (w : Word) (beats : List Byte) (rest : List Event) (i : Instr),
    s.pending = .command w beats :: rest → decode w = .ok i → step s = exec i (s.present w beats rest)) ∧
  ∀ (s : State) (i : Instr),
    step (s.withFetchWord 32 (encode i).toNat)
      = exec i (s.present (encode i) (List.replicate i.beatCount 0#8) s.pending)

/-- R9: with nothing pending nothing changes. -/
def Obligations.IdleStepChangesNothing : Prop := ∀ s : State, s.pending = [] → step s = .next s

/-- R63, R72: a command runs exactly when it brings the beats it takes, and then all of them are consumed; any other
transaction is refused. -/
def Obligations.BeatCountDecidesWhetherACommandRuns : Prop :=
  ∀ (i : Instr) (s : State),
    (s.inBeats.length = i.beatCount → ∃ t, exec i s = .next t ∧ t.inBeats = []) ∧
    (s.inBeats.length ≠ i.beatCount → exec i s = .refused .malformedTransaction) ∧
    (∀ len : Half, (Instr.pushn len).beatCount = len.toNat ∧ (Instr.setsof len).beatCount = len.toNat
      ∧ (Instr.seteof len).beatCount = len.toNat) ∧
    (i.opcode ∉ [0x11#8, 0x22#8, 0x24#8] → i.beatCount = 0)

/-- R66: READ and PEEKN return `val` beats, RECV a timestamp word and `val` beats (a zero word and none with NOFRAME), every
other command the response word alone. Codes 6 to 15 are never produced (R65, U10) and bits 27:16 are zero. -/
def Obligations.ResponseItems : Prop :=
  ∀ (i : Instr) (s : State), Inv s → s.inBeats.length = i.beatCount →
    ∃ t r, exec i s = .next t ∧ Answered s t r ∧ r.st.toNat ≤ 4 ∧ r.word.extractLsb' 16 12 = 0#12
      ∧ (i.opcode ∈ [0x14#8, 0x16#8] → r.ts = none ∧ r.beats.length = r.val.toNat)
      ∧ (i.opcode = 0x21#8 → r.ts.isSome = true ∧ r.beats.length = r.val.toNat
          ∧ (r.st = Status.noframe.code → r.ts = some 0#32 ∧ r.beats = []))
      ∧ (i.opcode ∉ [0x14#8, 0x16#8, 0x21#8] → r.ts = none ∧ r.beats = [])

/-! ### Ring access -/

/-- R80. -/
def Obligations.PushInsertsOrAnswersFull : Prop :=
  ∀ (s : State) (v : Byte), Inv s → s.inBeats = [] →
    (s.sz = s.cap → ∃ t, exec (.push v) s = .next t ∧ Answered s t (plain .full 0) ∧ Unchanged s t) ∧
    (s.sz ≠ s.cap → ∃ t, exec (.push v) s = .next t ∧ Answered s t (plain .ok 1)
      ∧ t.content = s.content ++ [some v]
      ∧ t.mem.read s.wp = some v ∧ (∀ a, a ≠ s.wp → t.mem.read a = s.mem.read a)
      ∧ t.wp = (s.wp + 1) % s.cap ∧ t.sz = s.sz + 1 ∧ t.rp = s.rp
      ∧ t.isEmpty = false ∧ (t.isFull = true ↔ s.sz + 1 = s.cap)
      ∧ SameShape s t ∧ SameConfig s t ∧ SameFrames s t ∧ SameWorld s t)

/-- R81, with the law that the result is that of one PUSH after another. -/
def Obligations.PushnInsertsWhatFits : Prop :=
  ∀ (s : State) (len : Half), Inv s → s.inBeats.length = len.toNat →
    ∃ t k, k = min len.toNat (s.cap - s.sz) ∧ exec (.pushn len) s = .next t
      ∧ Answered s t (plain (if k = len.toNat then .ok else .full) k)
      ∧ t.content = s.content ++ (s.inBeats.take k).map some
      ∧ (∀ j < k, t.mem.read ((s.wp + j) % s.cap) = s.inBeats[j]?)
      ∧ (∀ a, (∀ j < k, a ≠ (s.wp + j) % s.cap) → t.mem.read a = s.mem.read a)
      ∧ t.wp = wrap s.cap (s.wp + k : Nat) ∧ t.sz = s.sz + k ∧ t.rp = s.rp
      ∧ SameShape s t ∧ SameConfig s t ∧ SameFrames s t ∧ SameWorld s t
      ∧ t.mem = (pushEach s.inBeats s).mem ∧ t.wp = (pushEach s.inBeats s).wp ∧ t.sz = (pushEach s.inBeats s).sz
      ∧ t.rp = (pushEach s.inBeats s).rp

/-- R82. -/
def Obligations.PopRemovesTheOldest : Prop :=
  ∀ s : State, Inv s → s.inBeats = [] →
    (s.sz = 0 → ∃ t, exec .pop s = .next t ∧ Answered s t (plain .empty 0) ∧ Unchanged s t) ∧
    (s.sz ≠ 0 → ∃ (t : State) (v : Byte), exec .pop s = .next t ∧ Answered s t (plain .ok v.toNat)
      ∧ (∀ x, s.mem.read s.rp = some x → v = x)
      ∧ t.content = s.content.tail ∧ SameStore s t
      ∧ t.rp = (s.rp + 1) % s.cap ∧ t.sz = s.sz - 1 ∧ t.wp = s.wp
      ∧ t.isFull = false ∧ (t.isEmpty = true ↔ s.sz = 1)
      ∧ SameShape s t ∧ SameConfig s t ∧ SameFrames s t ∧ SameWorld s t)

/-- R83. -/
def Obligations.PopnDiscardsUpToN : Prop :=
  ∀ (s : State) (n : Half), Inv s → s.inBeats = [] →
    ∃ t k, k = min n.toNat s.sz ∧ exec (.popn n) s = .next t ∧ Answered s t (plain .ok k)
      ∧ t.content = s.content.drop k ∧ SameStore s t
      ∧ t.rp = wrap s.cap (s.rp + k : Nat) ∧ t.sz = s.sz - k ∧ t.wp = s.wp
      ∧ (s.sz ≤ n.toNat → t.sz = 0 ∧ t.rp = t.wp)
      ∧ SameShape s t ∧ SameConfig s t ∧ SameFrames s t ∧ SameWorld s t

/-- R84. -/
def Obligations.ReadCopiesOutAndRemoves : Prop :=
  ∀ (s : State) (len : Half), Inv s → s.inBeats = [] →
    ∃ t k bs, k = min len.toNat s.sz ∧ exec (.read len) s = .next t ∧ Answered s t (withBeats .ok k bs)
      ∧ Agrees bs (s.content.take k) ∧ t.content = s.content.drop k ∧ SameStore s t
      ∧ t.rp = wrap s.cap (s.rp + k : Nat) ∧ t.sz = s.sz - k ∧ t.wp = s.wp
      ∧ SameShape s t ∧ SameConfig s t ∧ SameFrames s t ∧ SameWorld s t

/-- R85. -/
def Obligations.PeekShowsTheOldest : Prop :=
  ∀ s : State, Inv s → s.inBeats = [] →
    (s.sz = 0 → ∃ t, exec .peek s = .next t ∧ Answered s t (plain .empty 0) ∧ Unchanged s t) ∧
    (s.sz ≠ 0 → ∃ (t : State) (v : Byte), exec .peek s = .next t ∧ Answered s t (plain .ok v.toNat)
      ∧ (∀ x, s.mem.read s.rp = some x → v = x) ∧ Unchanged s t)

/-- R86, with the law that a READ after it returns the same beats (where no element read is unspecified: by R17 two reads of an
unspecified cell need not agree). -/
def Obligations.PeeknCopiesWithoutRemoving : Prop :=
  ∀ (s : State) (len : Half), Inv s → s.inBeats = [] →
    ∃ t k bs, k = min len.toNat s.sz ∧ exec (.peekn len) s = .next t ∧ Answered s t (withBeats .ok k bs)
      ∧ Agrees bs (s.content.take k) ∧ Unchanged s t
      ∧ (none ∉ s.content.take k → ∃ u, exec (.read len) t = .next u ∧ Answered t u (withBeats .ok k bs))

/-- R87, R194. -/
def Obligations.IndexShowsALogicalElement : Prop :=
  ∀ (s : State) (i : Half), Inv s → s.inBeats = [] →
    (i.toNat < s.sz → ∃ (t : State) (v : Byte), exec (.index i) s = .next t ∧ Answered s t (plain .ok v.toNat)
      ∧ (∀ x, s.mem.read ((s.rp + i.toNat) % s.cap) = some x → v = x) ∧ Unchanged s t) ∧
    (s.sz ≤ i.toNat → ∃ t, exec (.index i) s = .next t ∧ Answered s t (plain .ok s.params.emptyValue.toNat) ∧ Unchanged s t)

/-- The FIFO law over any sequence of commands of the access family: the content is what was there and what was accepted, less
what was removed from the front, and what POP and READ returned is exactly that, in order (the last for sequences without POPN,
which removes and does not return). -/
def Obligations.FifoLaw : Prop :=
  ∀ (cs : List (Instr × List Byte)) (rest : List Event) (s : State), Inv s →
    (∀ c ∈ cs, Access c.1 = true ∧ c.1.WellFormedWith c.2) → s.pending = commands cs ++ rest →
    ∃ (t : State) (rs : List Response), rs.length = cs.length ∧ core.run cs.length s = .next t ∧ t.pending = rest
      ∧ t.trace = s.trace ++ transactions cs rs
      ∧ (let a := (List.zipWith (fun c r => accepted c.1 c.2 r) cs rs).flatten
         let r := (List.zipWith (fun c r => removed c.1 r) cs rs).sum
         let out := (List.zipWith (fun c r => returned c.1 r) cs rs).flatten
         r ≤ s.sz + a.length ∧ t.content = (s.content ++ a.map some).drop r ∧ t.sz = s.sz + a.length - r
          ∧ ((∀ c ∈ cs, c.1.opcode ≠ 0x13#8) → Agrees out ((s.content ++ a.map some).take r)))

/-! ### Reconciliation -/

/-- R100. -/
def Obligations.DmasyncReconciles : Prop :=
  ∀ (s : State) (rem : Half), Inv s → s.inBeats = [] →
    (s.cap < rem.toNat → ∃ t, exec (.dmasync rem) s = .next t ∧ Answered s t (plain .ignored 0) ∧ Unchanged s t) ∧
    (rem.toNat ≤ s.cap → ∃ (t : State) (w l d n : Int), w = (s.cap : Int) - rem.toNat
      ∧ l = (if w < s.ldc then (s.ldc : Int) - s.cap else s.ldc) ∧ d = w - l ∧ n = s.sz + d ∧ 0 ≤ d ∧ d ≤ s.cap
      ∧ exec (.dmasync rem) s = .next t ∧ Answered s t (plain .ok d.toNat)
      ∧ (t.wp : Int) = (s.wp + d) % s.cap
      ∧ (s.cap < n → (t.rp : Int) = (s.rp + (n - s.cap)) % s.cap ∧ t.sz = s.cap ∧ t.isFull = true)
      ∧ (n ≤ s.cap → t.rp = s.rp ∧ (t.sz : Int) = n)
      ∧ (t.ldc : Int) = w ∧ t.cap = s.cap
      ∧ SameStore s t ∧ SameConfig s t ∧ SameFrames s t ∧ SameWorld s t)

/-- R101: the bounds of every intermediate of the reconciliation, with d the difference the model computes. -/
def Obligations.ReconciliationBounds : Prop :=
  ∀ cap sz ldc rem : Nat, sz ≤ cap → ldc ≤ cap → rem ≤ cap →
    ∃ w l d n : Int, w = (cap : Int) - rem ∧ l = (if w < ldc then (ldc : Int) - cap else ldc) ∧ d = dmaDiff cap ldc rem
      ∧ d = w - l ∧ n = sz + d
      ∧ 0 ≤ w ∧ w ≤ cap ∧ -(cap : Int) ≤ l ∧ l ≤ cap ∧ 0 ≤ d ∧ d ≤ cap ∧ 0 ≤ n ∧ n ≤ 2 * cap ∧ n - cap ≤ cap
      ∧ ((ldc : Int) ≤ w → d = w - ldc) ∧ (w < ldc → d = cap - (ldc - w) ∧ d ≤ (cap : Int) - 1)
      ∧ (cap = 0 → w = 0 ∧ l = 0 ∧ d = 0 ∧ n = 0)

/-- R102: the content after a reconciliation of d bytes is the last of the old content followed by the d cells from the write
cursor on; on overrun the ring is Full with rp = wp and the response is OK with the full d. -/
def Obligations.OverrunDiscardsTheOldest : Prop :=
  ∀ (s : State) (rem : Half), Inv s → s.inBeats = [] → rem.toNat ≤ s.cap →
    ∃ (t : State) (d : Nat), (d : Int) = dmaDiff s.cap s.ldc rem.toNat ∧ exec (.dmasync rem) s = .next t
      ∧ Answered s t (plain .ok d)
      ∧ t.content = (s.content ++ (List.range d).map fun j => s.mem.read (s.writeAddr j)).drop (s.sz + d - s.cap)
      ∧ (s.cap < s.sz + d → t.sz = s.cap ∧ t.rp = t.wp ∧ t.isFull = true ∧ SameStore s t ∧ SameConfig s t ∧ SameFrames s t
          ∧ SameWorld s t)

/-- R103, R188. -/
def Obligations.SetrpRelocatesTheReadCursor : Prop :=
  ∀ (s : State) (pos : Half), Inv s → s.inBeats = [] →
    (s.cap ≤ pos.toNat → ∃ t, exec (.setrp pos) s = .next t ∧ Answered s t (plain .ignored 0) ∧ Unchanged s t) ∧
    (pos.toNat < s.cap → ∃ t, exec (.setrp pos) s = .next t ∧ Answered s t (plain .ok t.sz)
      ∧ t.rp = pos.toNat ∧ (t.sz : Int) = ((s.wp : Int) - pos.toNat) % s.cap ∧ t.wp = s.wp
      ∧ t.isFull = false ∧ (pos.toNat = s.wp → t.sz = 0)
      ∧ SameStore s t ∧ SameShape s t ∧ SameConfig s t ∧ SameFrames s t ∧ SameWorld s t)

/-- R104: coherence is established by a reset ring and a DMA start of length cap, and kept by the agent's steps, by a DMASYNC
with a value the counter had v bytes ago (it stood v writes behind its present place, and it comes from cap to 0 only by cap
writes), and by every command that moves neither wp nor ldc nor cap. -/
def Obligations.CoherenceIsKept : Prop :=
  (∀ s : State, Inv s → 0 < s.cap → s.wp = 0 → wrap s.cap (s.ldc : Nat) = 0 →
    ∃ t, dmaStart s.cap s = .next t ∧ Coherent t 0) ∧
  (∀ (s : State) (u : Nat) (b : Byte), Inv s → Coherent s u → 1 ≤ s.dmaRem →
    ∃ t, dmaWrite b s = .next t ∧ Coherent t (u + 1)) ∧
  (∀ (s : State) (u : Nat), Inv s → Coherent s u → s.dmaRem = 0 → ∃ t, dmaReload s = .next t ∧ Coherent t u) ∧
  (∀ (s : State) (u v : Nat) (rem : Half), Inv s → Coherent s u → s.inBeats = [] → v ≤ u → rem.toNat ≤ s.dmaLen →
    wrap s.cap ((s.dmaLen : Int) - rem.toNat) = wrap s.cap (s.ldc + (u - v) : Nat) →
    (rem.toNat = s.cap → s.dmaRem = 0 → s.cap ≤ v) →
    ∃ t, exec (.dmasync rem) s = .next t ∧ Coherent t v) ∧
  (∀ (i : Instr) (s : State) (u : Nat), Inv s → Coherent s u → s.inBeats.length = i.beatCount →
    i.opcode ∉ [0x10#8, 0x11#8, 0x18#8, 0x1A#8, 0x1B#8] → ∃ t, exec i s = .next t ∧ Coherent t u)

/-- R105, R106: in a coherent state with u bytes outstanding, DMASYNC with the counter's present value answers OK with d
congruent to u modulo cap; d = u for u < cap, and for u = cap only from ldc = 0 with the counter read as 0. -/
def Obligations.CoherentDmasyncCountsTheBytes : Prop :=
  ∀ (s : State) (u : Nat), Inv s → Coherent s u → s.inBeats = [] →
    ∃ (t : State) (d : Nat), exec (.dmasync (BitVec.ofNat 16 s.dmaRem)) s = .next t ∧ Answered s t (plain .ok d)
      ∧ Coherent t 0 ∧ d ≤ s.cap ∧ d % s.cap = u % s.cap
      ∧ (u < s.cap → d = u)
      ∧ (u = s.cap → d = if s.ldc = 0 ∧ s.dmaRem = 0 then s.cap else 0)
      ∧ (u < s.cap → u ≤ s.cap - s.sz → t.content = s.content ++ (List.range u).map fun j => s.mem.read (s.writeAddr j))

/-- R50, R104, R105 along a run: bytes received by the DMA agent change nothing of what is valid until the DMASYNC that counts
them, and then they are the end of the content, in the order received. The premise is `Coherent` as log 18 reads R104. -/
def Obligations.ReceivedBytesBecomeTheContent : Prop :=
  ∀ (bs : List Byte) (rest : List Event) (s : State), Inv s → Coherent s 0 → s.inBeats = [] → bs.length < s.cap →
    bs.length ≤ s.cap - s.sz → s.pending = dmaBurst s.dmaLen s.dmaRem bs ++ rest →
    ∃ u, core.run (dmaBurst s.dmaLen s.dmaRem bs).length s = .next u ∧ u.pending = rest ∧ u.content = s.content
      ∧ SameRegisters s u ∧ Coherent u bs.length
      ∧ ∃ t, exec (.dmasync (BitVec.ofNat 16 u.dmaRem)) u = .next t ∧ Answered u t (plain .ok bs.length)
        ∧ t.content = s.content ++ bs.map some ∧ Coherent t 0

/-! ### The environment's steps -/

/-- R45. -/
def Obligations.DmaWriteStep : Prop :=
  ∀ (s : State) (b : Byte) (rest : List Event), Inv s → s.pending = .dmaWrite b :: rest → 1 ≤ s.dmaRem →
    ∃ t, step s = .next t ∧ t.pending = rest
      ∧ t.mem.read (s.dmaLen - s.dmaRem) = some b ∧ (∀ a, a ≠ s.dmaLen - s.dmaRem → t.mem.read a = s.mem.read a)
      ∧ t.dmaRem = s.dmaRem - 1 ∧ t.dmaLen = s.dmaLen ∧ SameRegisters s t

/-- R46, R47, R44: reload, start and read of the DMA agent's counter. -/
def Obligations.DmaReloadStartAndRead : Prop :=
  ∀ (s : State) (rest : List Event),
    (s.pending = .dmaReload :: rest → s.dmaRem = 0 → 1 ≤ s.dmaLen →
      ∃ t, step s = .next t ∧ t.pending = rest ∧ t.dmaRem = s.dmaLen ∧ t.dmaLen = s.dmaLen ∧ SameStore s t
        ∧ SameRegisters s t) ∧
    (∀ n, s.pending = .dmaStart n :: rest → n ≤ s.params.cmax →
      ∃ t, step s = .next t ∧ t.pending = rest ∧ t.dmaRem = n ∧ t.dmaLen = n ∧ t.dmaIndex = 0 ∧ SameStore s t
        ∧ SameRegisters s t) ∧
    (s.pending = .dmaRead :: rest → ∃ t, step s = .next t ∧ t.trace = s.trace ++ [.dmaCounter s.dmaRem]
      ∧ t = { s with pending := rest, trace := t.trace })

/-- The model's choice (log 9): an agent's step that R45 or R46 does not enable, or a start whose length is outside R44's range,
is refused by name. -/
def Obligations.DisabledAgentStepsAreRefused : Prop :=
  ∀ (s : State) (rest : List Event),
    (∀ b, s.pending = .dmaWrite b :: rest → s.dmaRem = 0 → step s = .refused .dmaStepNotEnabled) ∧
    (s.pending = .dmaReload :: rest → (s.dmaRem ≠ 0 ∨ s.dmaLen = 0) → step s = .refused .dmaStepNotEnabled) ∧
    (∀ n, s.pending = .dmaStart n :: rest → s.params.cmax < n → step s = .refused .dmaLengthOutOfRange)

/-- R29 (with R17 for the store, R180 for what is not touched). -/
def Obligations.HardwareResetValues : Prop :=
  ∀ (s : State) (rest : List Event), s.pending = .reset :: rest →
    ∃ t, step s = .next t ∧ t.pending = rest ∧ t.cap = s.params.cinit ∧ t.rp = 0 ∧ t.wp = 0 ∧ t.sz = 0 ∧ t.ldc = 0
      ∧ (s.params.prefill = true → ∀ a < s.params.cmax, t.mem.read a = some s.params.emptyValue)
      ∧ (s.params.prefill = false → ∀ a, t.mem.read a = none)
      ∧ t.sof = [] ∧ t.eof = [] ∧ t.xlen = 0#16 ∧ t.sofOpen = false ∧ t.fq = []
      ∧ t.isEmpty = true ∧ (t.isFull = true ↔ s.params.cinit = 0) ∧ t.mode = .none
      ∧ t.params = s.params ∧ t.dmaLen = s.dmaLen ∧ t.dmaRem = s.dmaRem

/-! ### Management -/

/-- R120. That a kept element that was unspecified holds one byte from then on (`keep` is what the cells and the content read
as afterwards) is the model's choice (log 16). -/
def Obligations.ResizeKeepsTheOldest : Prop :=
  ∀ (s : State) (newcap : Half), Inv s → s.inBeats = [] →
    (s.params.cmax < newcap.toNat →
      ∃ t, exec (.resize newcap) s = .next t ∧ Answered s t (plain .ignored s.cap) ∧ Unchanged s t) ∧
    (newcap.toNat ≤ s.params.cmax → ∃ (t : State) (k : Nat) (keep : List Byte), k = min s.sz newcap.toNat
      ∧ exec (.resize newcap) s = .next t ∧ Answered s t (plain .ok newcap.toNat)
      ∧ Agrees keep (s.content.take k) ∧ (∀ a, t.mem.read a = keep[a]?) ∧ t.content = keep.map some
      ∧ t.cap = newcap.toNat ∧ t.rp = 0 ∧ t.sz = k ∧ t.wp = (if 0 < newcap.toNat then k % newcap.toNat else 0) ∧ t.ldc = 0
      ∧ (t.isFull = true ↔ k = newcap.toNat)
      ∧ SameConfig s t ∧ SameFrames s t ∧ SameWorld s t)

/-- R121. -/
def Obligations.ClearEmptiesTheRing : Prop :=
  ∀ s : State, s.inBeats = [] →
    ∃ t, exec .clear s = .next t ∧ Answered s t (plain .ok 0) ∧ t.sz = 0 ∧ t.rp = 0 ∧ t.wp = 0 ∧ t.sofOpen = false
      ∧ t.isEmpty = true ∧ (t.isFull = true ↔ s.cap = 0) ∧ t.fq = s.fq
      ∧ SameStore s t ∧ SameShape s t ∧ SameConfig s t ∧ SameWorld s t
      ∧ (∀ i : Half, ∃ u, exec (.index i) t = .next u ∧ Answered t u (plain .ok s.params.emptyValue.toNat))
      ∧ (∃ u, exec .pop t = .next u ∧ Answered t u (plain .empty 0))
      ∧ (∃ u, exec .peek t = .next u ∧ Answered t u (plain .empty 0))

/-- R122. -/
def Obligations.NopChangesNothing : Prop :=
  ∀ s : State, s.inBeats = [] → ∃ t, exec .nop s = .next t ∧ Answered s t (plain .ok 0) ∧ Unchanged s t

/-- R123, R26: the status registers, each of them a value that fits, with the layout of STATUS. -/
def Obligations.RdsrReadsTheStatusRegisters : Prop :=
  ∀ (s : State) (r : Half), Inv s → s.inBeats = [] →
    (14 < r.toNat → ∃ t, exec (.rdsr r) s = .next t ∧ Answered s t (plain .ignored 0) ∧ Unchanged s t) ∧
    (r.toNat ≤ 14 → ∃ (t : State) (v : Nat) (status : Half), exec (.rdsr r) s = .next t ∧ Answered s t (plain .ok v)
      ∧ Unchanged s t ∧ v < 65536
      ∧ [status.toNat, s.cap, s.sz, s.rp, s.wp, s.ldc, s.xlen.toNat, s.sof.length, s.eof.length, s.fq.length, s.params.cmax,
          s.params.dmaxlen, s.params.fqDepth, s.params.emptyValue.toNat, ((s.fq.map fun f => f.payload.length).headD 0)][r.toNat]?
        = some v
      ∧ (status.getLsbD 0 = true ↔ s.sz = 0) ∧ (status.getLsbD 1 = true ↔ s.sz = s.cap)
      ∧ status.getLsbD 2 = s.sofOpen ∧ (status.getLsbD 3 = true ↔ s.fq = [])
      ∧ (status.getLsbD 4 = true ↔ s.fq.length = s.params.fqDepth)
      ∧ status.extractLsb' 5 2
        = (if s.sof ≠ [] then 3#2 else if s.eof ≠ [] then 2#2 else if s.xlen ≠ 0#16 then 1#2 else 0#2)
      ∧ status.extractLsb' 7 9 = 0#9)

/-! ### Triage configuration -/

/-- R130. -/
def Obligations.SetsofWritesTheStartSequence : Prop :=
  ∀ (s : State) (len : Half), s.inBeats.length = len.toNat →
    (s.params.dmaxlen < len.toNat →
      ∃ t, exec (.setsof len) s = .next t ∧ Answered s t (plain .ignored 0) ∧ Unchanged s t) ∧
    (len.toNat ≤ s.params.dmaxlen → ∃ t, exec (.setsof len) s = .next t ∧ Answered s t (plain .ok len.toNat)
      ∧ t.sof = s.inBeats ∧ t.sofOpen = false ∧ t.eof = s.eof ∧ t.xlen = s.xlen ∧ t.fq = s.fq
      ∧ (0 < len.toNat → t.mode = .sof)
      ∧ SameStore s t ∧ SameCursors s t ∧ SameShape s t ∧ SameWorld s t) ∧
    (len.toNat = 0 → exec (.setsof len) s = exec .clrsof s)

/-- R131. -/
def Obligations.ClrsofForgetsTheStartSequence : Prop :=
  ∀ s : State, s.inBeats = [] → ∃ t, exec .clrsof s = .next t ∧ Answered s t (plain .ok 0)
    ∧ t.sof = [] ∧ t.sofOpen = false ∧ t.eof = s.eof ∧ t.xlen = s.xlen ∧ t.fq = s.fq
    ∧ t.mode = (if s.eof ≠ [] then .eof else if s.xlen ≠ 0#16 then .fixed else .none)
    ∧ SameStore s t ∧ SameCursors s t ∧ SameShape s t ∧ SameWorld s t

/-- R132. -/
def Obligations.SeteofWritesTheEndSequence : Prop :=
  ∀ (s : State) (len : Half), s.inBeats.length = len.toNat →
    (s.params.dmaxlen < len.toNat →
      ∃ t, exec (.seteof len) s = .next t ∧ Answered s t (plain .ignored 0) ∧ Unchanged s t) ∧
    (len.toNat ≤ s.params.dmaxlen → ∃ t, exec (.seteof len) s = .next t ∧ Answered s t (plain .ok len.toNat)
      ∧ t.eof = s.inBeats ∧ t.sof = s.sof ∧ t.xlen = s.xlen
      ∧ (0 < len.toNat → t.mode = if s.sof ≠ [] then .sof else .eof)
      ∧ SameFrames s t ∧ SameStore s t ∧ SameCursors s t ∧ SameShape s t ∧ SameWorld s t) ∧
    (len.toNat = 0 → exec (.seteof len) s = exec .clreof s)

/-- R133. -/
def Obligations.ClreofForgetsTheEndSequence : Prop :=
  ∀ s : State, s.inBeats = [] → ∃ t, exec .clreof s = .next t ∧ Answered s t (plain .ok 0)
    ∧ t.eof = [] ∧ t.sof = s.sof ∧ t.xlen = s.xlen
    ∧ SameFrames s t ∧ SameStore s t ∧ SameCursors s t ∧ SameShape s t ∧ SameWorld s t

/-- R134, R135. -/
def Obligations.SetlenAndClrlenWriteTheExpectedLength : Prop :=
  ∀ s : State, s.inBeats = [] →
    (∀ len : Half, ∃ t, exec (.setlen len) s = .next t ∧ Answered s t (plain .ok len.toNat) ∧ t.xlen = len
      ∧ t.sof = s.sof ∧ t.eof = s.eof
      ∧ (s.sof = [] → s.eof = [] → t.mode = if len = 0#16 then .none else .fixed)
      ∧ SameFrames s t ∧ SameStore s t ∧ SameCursors s t ∧ SameShape s t ∧ SameWorld s t) ∧
    (∃ t, exec .clrlen s = .next t ∧ Answered s t (plain .ok 0) ∧ t.xlen = 0#16 ∧ t.sof = s.sof ∧ t.eof = s.eof
      ∧ SameFrames s t ∧ SameStore s t ∧ SameCursors s t ∧ SameShape s t ∧ SameWorld s t) ∧
    exec (.setlen 0#16) s = exec .clrlen s

/-- R22. -/
def Obligations.ModePriority : Prop :=
  ∀ s : State, s.mode = (if s.sof ≠ [] then .sof else if s.eof ≠ [] then .eof else if s.xlen ≠ 0#16 then .fixed else .none)

/-! ### Frame triage -/

/-- R140, R146, R170: what RUN does in every mode and every state: it moves `rp` and `sz` forward, may open a frame, appends
frames whose timestamps never decrease, and writes nothing else. -/
def Obligations.RunWritesOnlyItsOwn : Prop :=
  ∀ s : State, Inv s → s.inBeats = [] →
    ∃ (t : State) (st : Status) (fs : List Frame), exec .run s = .next t ∧ (st = .ok ∨ st = .full)
      ∧ Answered s t (plain st fs.length) ∧ t.fq = s.fq ++ fs
      ∧ fs.length ≤ min s.sz (s.params.fqDepth - s.fq.length)
      ∧ (fs.Pairwise fun f g => f.ts ≤ g.ts) ∧ (∀ f ∈ fs, s.tick ≤ f.ts ∧ f.ts ≤ t.tick)
      ∧ t.sz ≤ s.sz ∧ t.content = s.content.drop (s.sz - t.sz) ∧ t.rp = wrap s.cap (s.rp + (s.sz - t.sz) : Nat) ∧ t.wp = s.wp
      ∧ (s.sofOpen = true → t.sofOpen = true) ∧ (s.mode ≠ .sof → t.sofOpen = s.sofOpen)
      ∧ (st = .full → t.fq.length = s.params.fqDepth)
      ∧ SameStore s t ∧ SameShape s t ∧ SameConfig s t ∧ SameAgents s t ∧ s.tick ≤ t.tick

/-- R147: sz + 1 passes suffice; more change nothing. -/
def Obligations.RunNeedsAtMostSizePlusOnePasses : Prop :=
  ∀ (s : State) (fuel : Nat), Inv s → s.sz + 1 ≤ fuel → scan s.mode fuel s 0 = scan s.mode (s.sz + 1) s 0

/-- R144. -/
def Obligations.RunInModeNoneExtractsNothing : Prop :=
  ∀ s : State, s.inBeats = [] → s.mode = .none →
    ∃ t, exec .run s = .next t ∧ Answered s t (plain .ok 0) ∧ Unchanged s t

/-- R143, R190: in fixed-length mode RUN cuts the content in pieces of xlen, as many as there are and (R146) as the queue has
room for. -/
def Obligations.RunInFixedModeCutsByLength : Prop :=
  ∀ s : State, Inv s → s.inBeats = [] → s.mode = .fixed →
    ∃ (t : State) (m : Nat) (fs : List Frame), m = min (s.sz / s.xlen.toNat) (s.params.fqDepth - s.fq.length)
      ∧ exec .run s = .next t ∧ Answered s t (plain (if m < s.sz / s.xlen.toNat then .full else .ok) m)
      ∧ t.fq = s.fq ++ fs ∧ fs.length = m
      ∧ (∀ j (h : j < fs.length), Agrees fs[j].payload ((s.content.drop (j * s.xlen.toNat)).take s.xlen.toNat))
      ∧ t.content = s.content.drop (m * s.xlen.toNat) ∧ t.sz = s.sz - m * s.xlen.toNat ∧ t.sofOpen = s.sofOpen
      ∧ (s.cap < s.xlen.toNat → m = 0)

/-- R142: in end-delimiter mode the bytes are cut at the first occurrences of the delimiter, until none is left or (R146) the
queue is full. -/
def Obligations.RunInEofModeCutsAtTheDelimiter : Prop :=
  ∀ (s : State) (bs : List Byte), Inv s → s.inBeats = [] → s.mode = .eof → s.content = bs.map some →
    ∃ (t : State) (st : Status) (fs : List Frame) (rest : List Byte), exec .run s = .next t
      ∧ Answered s t (plain st fs.length) ∧ t.fq = s.fq ++ fs ∧ Cut s.eof bs (fs.map Frame.payload) rest
      ∧ t.content = rest.map some ∧ t.sofOpen = s.sofOpen
      ∧ (st = .ok ∧ find s.eof rest = none
        ∨ st = .full ∧ find s.eof rest ≠ none ∧ t.fq.length = s.params.fqDepth)

/-- R141: in start-delimiter mode the noise and the first delimiter go, then the bytes are cut at the first occurrences of the
delimiter, until none is left or (R146) the queue is full; without a delimiter nothing moves. -/
def Obligations.RunInSofModeCutsAtTheDelimiter : Prop :=
  ∀ (s : State) (bs : List Byte), Inv s → s.inBeats = [] → s.mode = .sof → s.content = bs.map some →
    (s.sofOpen = false → find s.sof bs = none →
      ∃ t, exec .run s = .next t ∧ Answered s t (plain .ok 0) ∧ Unchanged s t) ∧
    (s.sofOpen = true ∨ find s.sof bs ≠ none →
      ∃ (t : State) (st : Status) (fs : List Frame) (head body rest : List Byte), exec .run s = .next t
        ∧ Answered s t (plain st fs.length) ∧ t.sofOpen = true ∧ t.fq = s.fq ++ fs
        ∧ bs = head ++ body
        ∧ (s.sofOpen = true → head = [])
        ∧ (s.sofOpen = false → ∃ noise, head = noise ++ s.sof ∧ find s.sof bs = some noise.length)
        ∧ Cut s.sof body (fs.map Frame.payload) rest ∧ t.content = rest.map some
        ∧ (st = .ok ∧ find s.sof rest = none
          ∨ st = .full ∧ find s.sof rest ≠ none ∧ t.fq.length = s.params.fqDepth))

/-- R150. -/
def Obligations.RecvTakesTheOldestFrame : Prop :=
  ∀ s : State, s.inBeats = [] →
    (s.fq = [] → ∃ t, exec .recv s = .next t ∧ Answered s t (withFrame .noframe 0 0#32 []) ∧ Unchanged s t) ∧
    (∀ (f : Frame) (rest : List Frame), s.fq = f :: rest → ∃ t, exec .recv s = .next t
      ∧ Answered s t (withFrame .ok f.payload.length f.ts f.payload) ∧ t.fq = rest ∧ t.sofOpen = s.sofOpen
      ∧ SameStore s t ∧ SameCursors s t ∧ SameShape s t ∧ SameConfig s t ∧ SameWorld s t)

/-- R151, R152. -/
def Obligations.FramesAndBytesCount : Prop :=
  ∀ s : State, s.inBeats = [] →
    (∃ t, exec .frames s = .next t ∧ Answered s t (plain .ok s.fq.length) ∧ Unchanged s t) ∧
    (∃ t, exec .bytes s = .next t ∧ Answered s t (plain .ok s.sz) ∧ Unchanged s t) ∧
    exec .frames s = exec (.rdsr 9#16) s ∧ exec .bytes s = exec (.rdsr 2#16) s

/-! ### The whole machine -/

/-- R16: every step keeps I1 to I7 (and the ranges of R4, R10, R44, R170); I4 follows. -/
def Obligations.StepKeepsTheInvariants : Prop :=
  ∀ s t : State, Inv s → step s = .next t → Inv t ∧ (t.isFull = true → t.isEmpty = true → t.cap = 0)

/-- The reset state meets the invariants. Its parameters are the model's choice (log 1), its registers R29's values. -/
def Obligations.ResetMeetsTheInvariants : Prop := Inv State.reset

/-- R4, R5: every ring register fits AW bits, the least AW with 2^AW > CMAX, 1 ≤ AW ≤ 16. `xlen`, which
the model gives the 16 bits of R21, fits them wherever R4 and R21 agree on its width (log 20). -/
def Obligations.RegistersFitTheirWidth : Prop :=
  ∀ s : State, Inv s →
    s.cap < 2 ^ s.params.aw ∧ s.rp < 2 ^ s.params.aw ∧ s.wp < 2 ^ s.params.aw ∧ s.sz < 2 ^ s.params.aw
      ∧ s.ldc < 2 ^ s.params.aw ∧ 1 ≤ s.params.aw ∧ s.params.aw ≤ 16 ∧ s.params.cmax < 2 ^ s.params.aw
      ∧ (2 ^ 15 ≤ s.params.cmax → s.xlen.toNat < 2 ^ s.params.aw)
      ∧ ∀ n, s.params.cmax < 2 ^ n → s.params.aw ≤ n

/-- R10: a step that changes what a cell reads as is a PUSH, a PUSHN, a RESIZE, a DMA write step or a reset. -/
def Obligations.OnlyTheseStepsWriteCells : Prop :=
  ∀ (s t : State) (a : Nat), step s = .next t → t.mem.read a ≠ s.mem.read a →
    ∃ (e : Event) (rest : List Event), s.pending = e :: rest ∧
      (e = .reset ∨ (∃ b, e = .dmaWrite b ∧ a = s.dmaLen - s.dmaRem)
        ∨ ∃ w beats i, e = .command w beats ∧ decode w = .ok i ∧ i.opcode ∈ [0x10#8, 0x11#8, 0x1A#8])

/-- R11, R13, R15, R27: only RESIZE and reset change `cap`; only PUSH, PUSHN, DMASYNC, RESIZE, CLEAR and reset change `wp`;
only DMASYNC, RESIZE and reset change `ldc`; no step changes a parameter. -/
def Obligations.OnlyTheseStepsWriteTheRingRegisters : Prop :=
  ∀ s t : State, step s = .next t →
    t.params = s.params ∧
    (t.cap ≠ s.cap → (∃ rest, s.pending = .reset :: rest)
      ∨ ∃ w beats rest n, s.pending = .command w beats :: rest ∧ decode w = .ok (.resize n) ∧ n.toNat ≤ s.params.cmax) ∧
    (t.wp ≠ s.wp → (∃ rest, s.pending = .reset :: rest)
      ∨ ∃ w beats rest i, s.pending = .command w beats :: rest ∧ decode w = .ok i
        ∧ i.opcode ∈ [0x10#8, 0x11#8, 0x18#8, 0x1A#8, 0x1B#8]) ∧
    (t.ldc ≠ s.ldc → (∃ rest, s.pending = .reset :: rest)
      ∨ ∃ w beats rest i, s.pending = .command w beats :: rest ∧ decode w = .ok i ∧ i.opcode ∈ [0x18#8, 0x1A#8])

/-- R161: but for RUN, the status of a command is decided by its word, by cap, sz and the queue's length, and by CMAX and
DMAXLEN; and no command's status, RUN's included, depends on the DMA agent or on the tick. -/
def Obligations.StatusDependsOnlyOnCounts : Prop :=
  (∀ (i : Instr) (s : State) (len rem samples : Nat) (tick : Word), s.inBeats.length = i.beatCount →
    ∃ t t' r r', exec i s = .next t
      ∧ exec i { s with dmaLen := len, dmaRem := rem, tick := tick, samples := samples } = .next t'
      ∧ Answered s t r ∧ Answered s t' r' ∧ r.st = r'.st) ∧
  ∀ (i : Instr) (s s' : State), i ≠ .run → s.inBeats.length = i.beatCount → s'.inBeats.length = i.beatCount →
    s.cap = s'.cap → s.sz = s'.sz → s.fq.length = s'.fq.length → s.params.cmax = s'.params.cmax →
    s.params.dmaxlen = s'.params.dmaxlen →
    ∃ t t' r r', exec i s = .next t ∧ exec i s' = .next t' ∧ Answered s t r ∧ Answered s' t' r' ∧ r.st = r'.st

/-- R54: no command reads or writes a cell at or beyond `cap`: two stores that agree below it give the same response and the
same state but for the cells beyond. -/
def Obligations.CellsBeyondTheCapacityDoNotMatter : Prop :=
  ∀ (i : Instr) (s : State) (m : Memory), Inv s → s.inBeats.length = i.beatCount →
    (∀ a < s.cap, m.read a = s.mem.read a) →
    ∃ t t', exec i s = .next t ∧ exec i { s with mem := m } = .next t' ∧ t' = { t with mem := t'.mem }
      ∧ (∀ a < s.cap, t'.mem.read a = t.mem.read a)
      ∧ (i.opcode ≠ 0x1A#8 → ∀ a, s.cap ≤ a → t.mem.read a = s.mem.read a)

/-- R43, R173: the commands that change no state. -/
def Obligations.InspectionChangesNothing : Prop :=
  ∀ (i : Instr) (s : State), i.opcode ∈ [0x00#8, 0x15#8, 0x16#8, 0x17#8, 0x28#8, 0x29#8, 0x30#8] →
    s.inBeats.length = i.beatCount → ∃ t, exec i s = .next t ∧ Unchanged s t

/-- R181: commands alone bring everything but storage to its reset value. -/
def Obligations.CommandsReachTheResetValues : Prop :=
  ∀ (s : State) (rest : List Event), Inv s →
    let cs : List (Instr × List Byte) :=
      [(.resize (BitVec.ofNat 16 s.params.cinit), []), (.clear, []), (.clrsof, []), (.clreof, []), (.clrlen, [])]
        ++ List.replicate s.fq.length (.recv, [])
    s.pending = commands cs ++ rest →
    ∃ t, core.run cs.length s = .next t ∧ t.pending = rest ∧ t.cap = s.params.cinit ∧ t.rp = 0 ∧ t.wp = 0 ∧ t.sz = 0
      ∧ t.ldc = 0 ∧ t.sof = [] ∧ t.eof = [] ∧ t.xlen = 0#16 ∧ t.sofOpen = false ∧ t.fq = []
end

