-- ==== Sys2Proof/Laws/State.lean ====
section
/-! SUPPORT. For every named update of State, what each field is after it, so that no proof unfolds a record update. -/

namespace Sys2Proof.Machine

variable (s : State)

/-! ### drawn -/

@[simp] theorem State.drawn_params : (s.drawn).params = s.params := rfl
@[simp] theorem State.drawn_mem : (s.drawn).mem = s.mem := rfl
@[simp] theorem State.drawn_cap : (s.drawn).cap = s.cap := rfl
@[simp] theorem State.drawn_rp : (s.drawn).rp = s.rp := rfl
@[simp] theorem State.drawn_wp : (s.drawn).wp = s.wp := rfl
@[simp] theorem State.drawn_sz : (s.drawn).sz = s.sz := rfl
@[simp] theorem State.drawn_ldc : (s.drawn).ldc = s.ldc := rfl
@[simp] theorem State.drawn_sof : (s.drawn).sof = s.sof := rfl
@[simp] theorem State.drawn_eof : (s.drawn).eof = s.eof := rfl
@[simp] theorem State.drawn_xlen : (s.drawn).xlen = s.xlen := rfl
@[simp] theorem State.drawn_sofOpen : (s.drawn).sofOpen = s.sofOpen := rfl
@[simp] theorem State.drawn_fq : (s.drawn).fq = s.fq := rfl
@[simp] theorem State.drawn_dmaLen : (s.drawn).dmaLen = s.dmaLen := rfl
@[simp] theorem State.drawn_dmaRem : (s.drawn).dmaRem = s.dmaRem := rfl
@[simp] theorem State.drawn_tick : (s.drawn).tick = s.tick := rfl
@[simp] theorem State.drawn_samples : (s.drawn).samples = s.samples := rfl
@[simp] theorem State.drawn_draws : (s.drawn).draws = s.draws + 1 := rfl
@[simp] theorem State.drawn_pending : (s.drawn).pending = s.pending := rfl
@[simp] theorem State.drawn_cmdWord : (s.drawn).cmdWord = s.cmdWord := rfl
@[simp] theorem State.drawn_inBeats : (s.drawn).inBeats = s.inBeats := rfl
@[simp] theorem State.drawn_trace : (s.drawn).trace = s.trace := rfl

/-! ### writeCell -/

@[simp] theorem State.writeCell_params (a : Nat) (v : Byte) : (s.writeCell a v).params = s.params := rfl
@[simp] theorem State.writeCell_mem (a : Nat) (v : Byte) : (s.writeCell a v).mem = s.mem.write a v := rfl
@[simp] theorem State.writeCell_cap (a : Nat) (v : Byte) : (s.writeCell a v).cap = s.cap := rfl
@[simp] theorem State.writeCell_rp (a : Nat) (v : Byte) : (s.writeCell a v).rp = s.rp := rfl
@[simp] theorem State.writeCell_wp (a : Nat) (v : Byte) : (s.writeCell a v).wp = s.wp := rfl
@[simp] theorem State.writeCell_sz (a : Nat) (v : Byte) : (s.writeCell a v).sz = s.sz := rfl
@[simp] theorem State.writeCell_ldc (a : Nat) (v : Byte) : (s.writeCell a v).ldc = s.ldc := rfl
@[simp] theorem State.writeCell_sof (a : Nat) (v : Byte) : (s.writeCell a v).sof = s.sof := rfl
@[simp] theorem State.writeCell_eof (a : Nat) (v : Byte) : (s.writeCell a v).eof = s.eof := rfl
@[simp] theorem State.writeCell_xlen (a : Nat) (v : Byte) : (s.writeCell a v).xlen = s.xlen := rfl
@[simp] theorem State.writeCell_sofOpen (a : Nat) (v : Byte) : (s.writeCell a v).sofOpen = s.sofOpen := rfl
@[simp] theorem State.writeCell_fq (a : Nat) (v : Byte) : (s.writeCell a v).fq = s.fq := rfl
@[simp] theorem State.writeCell_dmaLen (a : Nat) (v : Byte) : (s.writeCell a v).dmaLen = s.dmaLen := rfl
@[simp] theorem State.writeCell_dmaRem (a : Nat) (v : Byte) : (s.writeCell a v).dmaRem = s.dmaRem := rfl
@[simp] theorem State.writeCell_tick (a : Nat) (v : Byte) : (s.writeCell a v).tick = s.tick := rfl
@[simp] theorem State.writeCell_samples (a : Nat) (v : Byte) : (s.writeCell a v).samples = s.samples := rfl
@[simp] theorem State.writeCell_draws (a : Nat) (v : Byte) : (s.writeCell a v).draws = s.draws := rfl
@[simp] theorem State.writeCell_pending (a : Nat) (v : Byte) : (s.writeCell a v).pending = s.pending := rfl
@[simp] theorem State.writeCell_cmdWord (a : Nat) (v : Byte) : (s.writeCell a v).cmdWord = s.cmdWord := rfl
@[simp] theorem State.writeCell_inBeats (a : Nat) (v : Byte) : (s.writeCell a v).inBeats = s.inBeats := rfl
@[simp] theorem State.writeCell_trace (a : Nat) (v : Byte) : (s.writeCell a v).trace = s.trace := rfl

/-! ### dropFront -/

@[simp] theorem State.dropFront_params (k : Nat) : (s.dropFront k).params = s.params := rfl
@[simp] theorem State.dropFront_mem (k : Nat) : (s.dropFront k).mem = s.mem := rfl
@[simp] theorem State.dropFront_cap (k : Nat) : (s.dropFront k).cap = s.cap := rfl
@[simp] theorem State.dropFront_rp (k : Nat) : (s.dropFront k).rp = wrap s.cap (s.rp + k : Nat) := rfl
@[simp] theorem State.dropFront_wp (k : Nat) : (s.dropFront k).wp = s.wp := rfl
@[simp] theorem State.dropFront_sz (k : Nat) : (s.dropFront k).sz = s.sz - k := rfl
@[simp] theorem State.dropFront_ldc (k : Nat) : (s.dropFront k).ldc = s.ldc := rfl
@[simp] theorem State.dropFront_sof (k : Nat) : (s.dropFront k).sof = s.sof := rfl
@[simp] theorem State.dropFront_eof (k : Nat) : (s.dropFront k).eof = s.eof := rfl
@[simp] theorem State.dropFront_xlen (k : Nat) : (s.dropFront k).xlen = s.xlen := rfl
@[simp] theorem State.dropFront_sofOpen (k : Nat) : (s.dropFront k).sofOpen = s.sofOpen := rfl
@[simp] theorem State.dropFront_fq (k : Nat) : (s.dropFront k).fq = s.fq := rfl
@[simp] theorem State.dropFront_dmaLen (k : Nat) : (s.dropFront k).dmaLen = s.dmaLen := rfl
@[simp] theorem State.dropFront_dmaRem (k : Nat) : (s.dropFront k).dmaRem = s.dmaRem := rfl
@[simp] theorem State.dropFront_tick (k : Nat) : (s.dropFront k).tick = s.tick := rfl
@[simp] theorem State.dropFront_samples (k : Nat) : (s.dropFront k).samples = s.samples := rfl
@[simp] theorem State.dropFront_draws (k : Nat) : (s.dropFront k).draws = s.draws := rfl
@[simp] theorem State.dropFront_pending (k : Nat) : (s.dropFront k).pending = s.pending := rfl
@[simp] theorem State.dropFront_cmdWord (k : Nat) : (s.dropFront k).cmdWord = s.cmdWord := rfl
@[simp] theorem State.dropFront_inBeats (k : Nat) : (s.dropFront k).inBeats = s.inBeats := rfl
@[simp] theorem State.dropFront_trace (k : Nat) : (s.dropFront k).trace = s.trace := rfl

/-! ### advanceWrite -/

@[simp] theorem State.advanceWrite_params (k : Nat) : (s.advanceWrite k).params = s.params := rfl
@[simp] theorem State.advanceWrite_mem (k : Nat) : (s.advanceWrite k).mem = s.mem := rfl
@[simp] theorem State.advanceWrite_cap (k : Nat) : (s.advanceWrite k).cap = s.cap := rfl
@[simp] theorem State.advanceWrite_rp (k : Nat) : (s.advanceWrite k).rp = s.rp := rfl
@[simp] theorem State.advanceWrite_wp (k : Nat) : (s.advanceWrite k).wp = wrap s.cap (s.wp + k : Nat) := rfl
@[simp] theorem State.advanceWrite_sz (k : Nat) : (s.advanceWrite k).sz = s.sz + k := rfl
@[simp] theorem State.advanceWrite_ldc (k : Nat) : (s.advanceWrite k).ldc = s.ldc := rfl
@[simp] theorem State.advanceWrite_sof (k : Nat) : (s.advanceWrite k).sof = s.sof := rfl
@[simp] theorem State.advanceWrite_eof (k : Nat) : (s.advanceWrite k).eof = s.eof := rfl
@[simp] theorem State.advanceWrite_xlen (k : Nat) : (s.advanceWrite k).xlen = s.xlen := rfl
@[simp] theorem State.advanceWrite_sofOpen (k : Nat) : (s.advanceWrite k).sofOpen = s.sofOpen := rfl
@[simp] theorem State.advanceWrite_fq (k : Nat) : (s.advanceWrite k).fq = s.fq := rfl
@[simp] theorem State.advanceWrite_dmaLen (k : Nat) : (s.advanceWrite k).dmaLen = s.dmaLen := rfl
@[simp] theorem State.advanceWrite_dmaRem (k : Nat) : (s.advanceWrite k).dmaRem = s.dmaRem := rfl
@[simp] theorem State.advanceWrite_tick (k : Nat) : (s.advanceWrite k).tick = s.tick := rfl
@[simp] theorem State.advanceWrite_samples (k : Nat) : (s.advanceWrite k).samples = s.samples := rfl
@[simp] theorem State.advanceWrite_draws (k : Nat) : (s.advanceWrite k).draws = s.draws := rfl
@[simp] theorem State.advanceWrite_pending (k : Nat) : (s.advanceWrite k).pending = s.pending := rfl
@[simp] theorem State.advanceWrite_cmdWord (k : Nat) : (s.advanceWrite k).cmdWord = s.cmdWord := rfl
@[simp] theorem State.advanceWrite_inBeats (k : Nat) : (s.advanceWrite k).inBeats = s.inBeats := rfl
@[simp] theorem State.advanceWrite_trace (k : Nat) : (s.advanceWrite k).trace = s.trace := rfl

/-! ### enqueue -/

@[simp] theorem State.enqueue_params (p : List Byte) : (s.enqueue p).params = s.params := rfl
@[simp] theorem State.enqueue_mem (p : List Byte) : (s.enqueue p).mem = s.mem := rfl
@[simp] theorem State.enqueue_cap (p : List Byte) : (s.enqueue p).cap = s.cap := rfl
@[simp] theorem State.enqueue_rp (p : List Byte) : (s.enqueue p).rp = s.rp := rfl
@[simp] theorem State.enqueue_wp (p : List Byte) : (s.enqueue p).wp = s.wp := rfl
@[simp] theorem State.enqueue_sz (p : List Byte) : (s.enqueue p).sz = s.sz := rfl
@[simp] theorem State.enqueue_ldc (p : List Byte) : (s.enqueue p).ldc = s.ldc := rfl
@[simp] theorem State.enqueue_sof (p : List Byte) : (s.enqueue p).sof = s.sof := rfl
@[simp] theorem State.enqueue_eof (p : List Byte) : (s.enqueue p).eof = s.eof := rfl
@[simp] theorem State.enqueue_xlen (p : List Byte) : (s.enqueue p).xlen = s.xlen := rfl
@[simp] theorem State.enqueue_sofOpen (p : List Byte) : (s.enqueue p).sofOpen = s.sofOpen := rfl
@[simp] theorem State.enqueue_fq (p : List Byte) : (s.enqueue p).fq = s.fq ++ [⟨p, s.tickSample⟩] := rfl
@[simp] theorem State.enqueue_dmaLen (p : List Byte) : (s.enqueue p).dmaLen = s.dmaLen := rfl
@[simp] theorem State.enqueue_dmaRem (p : List Byte) : (s.enqueue p).dmaRem = s.dmaRem := rfl
@[simp] theorem State.enqueue_tick (p : List Byte) : (s.enqueue p).tick = s.tickSample := rfl
@[simp] theorem State.enqueue_samples (p : List Byte) : (s.enqueue p).samples = s.samples + 1 := rfl
@[simp] theorem State.enqueue_draws (p : List Byte) : (s.enqueue p).draws = s.draws := rfl
@[simp] theorem State.enqueue_pending (p : List Byte) : (s.enqueue p).pending = s.pending := rfl
@[simp] theorem State.enqueue_cmdWord (p : List Byte) : (s.enqueue p).cmdWord = s.cmdWord := rfl
@[simp] theorem State.enqueue_inBeats (p : List Byte) : (s.enqueue p).inBeats = s.inBeats := rfl
@[simp] theorem State.enqueue_trace (p : List Byte) : (s.enqueue p).trace = s.trace := rfl

/-! ### openFrameAfter -/

@[simp] theorem State.openFrameAfter_params (k : Nat) : (s.openFrameAfter k).params = s.params := rfl
@[simp] theorem State.openFrameAfter_mem (k : Nat) : (s.openFrameAfter k).mem = s.mem := rfl
@[simp] theorem State.openFrameAfter_cap (k : Nat) : (s.openFrameAfter k).cap = s.cap := rfl
@[simp] theorem State.openFrameAfter_rp (k : Nat) : (s.openFrameAfter k).rp = wrap s.cap (s.rp + k : Nat) := rfl
@[simp] theorem State.openFrameAfter_wp (k : Nat) : (s.openFrameAfter k).wp = s.wp := rfl
@[simp] theorem State.openFrameAfter_sz (k : Nat) : (s.openFrameAfter k).sz = s.sz - k := rfl
@[simp] theorem State.openFrameAfter_ldc (k : Nat) : (s.openFrameAfter k).ldc = s.ldc := rfl
@[simp] theorem State.openFrameAfter_sof (k : Nat) : (s.openFrameAfter k).sof = s.sof := rfl
@[simp] theorem State.openFrameAfter_eof (k : Nat) : (s.openFrameAfter k).eof = s.eof := rfl
@[simp] theorem State.openFrameAfter_xlen (k : Nat) : (s.openFrameAfter k).xlen = s.xlen := rfl
@[simp] theorem State.openFrameAfter_sofOpen (k : Nat) : (s.openFrameAfter k).sofOpen = true := rfl
@[simp] theorem State.openFrameAfter_fq (k : Nat) : (s.openFrameAfter k).fq = s.fq := rfl
@[simp] theorem State.openFrameAfter_dmaLen (k : Nat) : (s.openFrameAfter k).dmaLen = s.dmaLen := rfl
@[simp] theorem State.openFrameAfter_dmaRem (k : Nat) : (s.openFrameAfter k).dmaRem = s.dmaRem := rfl
@[simp] theorem State.openFrameAfter_tick (k : Nat) : (s.openFrameAfter k).tick = s.tick := rfl
@[simp] theorem State.openFrameAfter_samples (k : Nat) : (s.openFrameAfter k).samples = s.samples := rfl
@[simp] theorem State.openFrameAfter_draws (k : Nat) : (s.openFrameAfter k).draws = s.draws := rfl
@[simp] theorem State.openFrameAfter_pending (k : Nat) : (s.openFrameAfter k).pending = s.pending := rfl
@[simp] theorem State.openFrameAfter_cmdWord (k : Nat) : (s.openFrameAfter k).cmdWord = s.cmdWord := rfl
@[simp] theorem State.openFrameAfter_inBeats (k : Nat) : (s.openFrameAfter k).inBeats = s.inBeats := rfl
@[simp] theorem State.openFrameAfter_trace (k : Nat) : (s.openFrameAfter k).trace = s.trace := rfl

/-! ### extract -/

@[simp] theorem State.extract_params (p : List Byte) (c : Nat) : (s.extract p c).params = s.params := rfl
@[simp] theorem State.extract_mem (p : List Byte) (c : Nat) : (s.extract p c).mem = s.mem := rfl
@[simp] theorem State.extract_cap (p : List Byte) (c : Nat) : (s.extract p c).cap = s.cap := rfl
@[simp] theorem State.extract_rp (p : List Byte) (c : Nat) : (s.extract p c).rp = wrap s.cap (s.rp + c : Nat) := rfl
@[simp] theorem State.extract_wp (p : List Byte) (c : Nat) : (s.extract p c).wp = s.wp := rfl
@[simp] theorem State.extract_sz (p : List Byte) (c : Nat) : (s.extract p c).sz = s.sz - c := rfl
@[simp] theorem State.extract_ldc (p : List Byte) (c : Nat) : (s.extract p c).ldc = s.ldc := rfl
@[simp] theorem State.extract_sof (p : List Byte) (c : Nat) : (s.extract p c).sof = s.sof := rfl
@[simp] theorem State.extract_eof (p : List Byte) (c : Nat) : (s.extract p c).eof = s.eof := rfl
@[simp] theorem State.extract_xlen (p : List Byte) (c : Nat) : (s.extract p c).xlen = s.xlen := rfl
@[simp] theorem State.extract_sofOpen (p : List Byte) (c : Nat) : (s.extract p c).sofOpen = s.sofOpen := rfl
@[simp] theorem State.extract_fq (p : List Byte) (c : Nat) : (s.extract p c).fq = s.fq ++ [⟨p, s.tickSample⟩] := rfl
@[simp] theorem State.extract_dmaLen (p : List Byte) (c : Nat) : (s.extract p c).dmaLen = s.dmaLen := rfl
@[simp] theorem State.extract_dmaRem (p : List Byte) (c : Nat) : (s.extract p c).dmaRem = s.dmaRem := rfl
@[simp] theorem State.extract_tick (p : List Byte) (c : Nat) : (s.extract p c).tick = s.tickSample := rfl
@[simp] theorem State.extract_samples (p : List Byte) (c : Nat) : (s.extract p c).samples = s.samples + 1 := rfl
@[simp] theorem State.extract_draws (p : List Byte) (c : Nat) : (s.extract p c).draws = s.draws := rfl
@[simp] theorem State.extract_pending (p : List Byte) (c : Nat) : (s.extract p c).pending = s.pending := rfl
@[simp] theorem State.extract_cmdWord (p : List Byte) (c : Nat) : (s.extract p c).cmdWord = s.cmdWord := rfl
@[simp] theorem State.extract_inBeats (p : List Byte) (c : Nat) : (s.extract p c).inBeats = s.inBeats := rfl
@[simp] theorem State.extract_trace (p : List Byte) (c : Nat) : (s.extract p c).trace = s.trace := rfl

/-! ### takeEvent -/

@[simp] theorem State.takeEvent_params (es : List Event) : (s.takeEvent es).params = s.params := rfl
@[simp] theorem State.takeEvent_mem (es : List Event) : (s.takeEvent es).mem = s.mem := rfl
@[simp] theorem State.takeEvent_cap (es : List Event) : (s.takeEvent es).cap = s.cap := rfl
@[simp] theorem State.takeEvent_rp (es : List Event) : (s.takeEvent es).rp = s.rp := rfl
@[simp] theorem State.takeEvent_wp (es : List Event) : (s.takeEvent es).wp = s.wp := rfl
@[simp] theorem State.takeEvent_sz (es : List Event) : (s.takeEvent es).sz = s.sz := rfl
@[simp] theorem State.takeEvent_ldc (es : List Event) : (s.takeEvent es).ldc = s.ldc := rfl
@[simp] theorem State.takeEvent_sof (es : List Event) : (s.takeEvent es).sof = s.sof := rfl
@[simp] theorem State.takeEvent_eof (es : List Event) : (s.takeEvent es).eof = s.eof := rfl
@[simp] theorem State.takeEvent_xlen (es : List Event) : (s.takeEvent es).xlen = s.xlen := rfl
@[simp] theorem State.takeEvent_sofOpen (es : List Event) : (s.takeEvent es).sofOpen = s.sofOpen := rfl
@[simp] theorem State.takeEvent_fq (es : List Event) : (s.takeEvent es).fq = s.fq := rfl
@[simp] theorem State.takeEvent_dmaLen (es : List Event) : (s.takeEvent es).dmaLen = s.dmaLen := rfl
@[simp] theorem State.takeEvent_dmaRem (es : List Event) : (s.takeEvent es).dmaRem = s.dmaRem := rfl
@[simp] theorem State.takeEvent_tick (es : List Event) : (s.takeEvent es).tick = s.tick := rfl
@[simp] theorem State.takeEvent_samples (es : List Event) : (s.takeEvent es).samples = s.samples := rfl
@[simp] theorem State.takeEvent_draws (es : List Event) : (s.takeEvent es).draws = s.draws := rfl
@[simp] theorem State.takeEvent_pending (es : List Event) : (s.takeEvent es).pending = es := rfl
@[simp] theorem State.takeEvent_cmdWord (es : List Event) : (s.takeEvent es).cmdWord = s.cmdWord := rfl
@[simp] theorem State.takeEvent_inBeats (es : List Event) : (s.takeEvent es).inBeats = s.inBeats := rfl
@[simp] theorem State.takeEvent_trace (es : List Event) : (s.takeEvent es).trace = s.trace := rfl

/-! ### present -/

@[simp] theorem State.present_params (w : Word) (bs : List Byte) (es : List Event) : (s.present w bs es).params = s.params := rfl
@[simp] theorem State.present_mem (w : Word) (bs : List Byte) (es : List Event) : (s.present w bs es).mem = s.mem := rfl
@[simp] theorem State.present_cap (w : Word) (bs : List Byte) (es : List Event) : (s.present w bs es).cap = s.cap := rfl
@[simp] theorem State.present_rp (w : Word) (bs : List Byte) (es : List Event) : (s.present w bs es).rp = s.rp := rfl
@[simp] theorem State.present_wp (w : Word) (bs : List Byte) (es : List Event) : (s.present w bs es).wp = s.wp := rfl
@[simp] theorem State.present_sz (w : Word) (bs : List Byte) (es : List Event) : (s.present w bs es).sz = s.sz := rfl
@[simp] theorem State.present_ldc (w : Word) (bs : List Byte) (es : List Event) : (s.present w bs es).ldc = s.ldc := rfl
@[simp] theorem State.present_sof (w : Word) (bs : List Byte) (es : List Event) : (s.present w bs es).sof = s.sof := rfl
@[simp] theorem State.present_eof (w : Word) (bs : List Byte) (es : List Event) : (s.present w bs es).eof = s.eof := rfl
@[simp] theorem State.present_xlen (w : Word) (bs : List Byte) (es : List Event) : (s.present w bs es).xlen = s.xlen := rfl
@[simp] theorem State.present_sofOpen (w : Word) (bs : List Byte) (es : List Event) : (s.present w bs es).sofOpen = s.sofOpen := rfl
@[simp] theorem State.present_fq (w : Word) (bs : List Byte) (es : List Event) : (s.present w bs es).fq = s.fq := rfl
@[simp] theorem State.present_dmaLen (w : Word) (bs : List Byte) (es : List Event) : (s.present w bs es).dmaLen = s.dmaLen := rfl
@[simp] theorem State.present_dmaRem (w : Word) (bs : List Byte) (es : List Event) : (s.present w bs es).dmaRem = s.dmaRem := rfl
@[simp] theorem State.present_tick (w : Word) (bs : List Byte) (es : List Event) : (s.present w bs es).tick = s.tick := rfl
@[simp] theorem State.present_samples (w : Word) (bs : List Byte) (es : List Event) : (s.present w bs es).samples = s.samples := rfl
@[simp] theorem State.present_draws (w : Word) (bs : List Byte) (es : List Event) : (s.present w bs es).draws = s.draws := rfl
@[simp] theorem State.present_pending (w : Word) (bs : List Byte) (es : List Event) : (s.present w bs es).pending = es := rfl
@[simp] theorem State.present_cmdWord (w : Word) (bs : List Byte) (es : List Event) : (s.present w bs es).cmdWord = w := rfl
@[simp] theorem State.present_inBeats (w : Word) (bs : List Byte) (es : List Event) : (s.present w bs es).inBeats = bs := rfl
@[simp] theorem State.present_trace (w : Word) (bs : List Byte) (es : List Event) : (s.present w bs es).trace = s.trace := rfl

/-! ### reply -/

@[simp] theorem State.reply_params (r : Response) : (s.reply r).params = s.params := rfl
@[simp] theorem State.reply_mem (r : Response) : (s.reply r).mem = s.mem := rfl
@[simp] theorem State.reply_cap (r : Response) : (s.reply r).cap = s.cap := rfl
@[simp] theorem State.reply_rp (r : Response) : (s.reply r).rp = s.rp := rfl
@[simp] theorem State.reply_wp (r : Response) : (s.reply r).wp = s.wp := rfl
@[simp] theorem State.reply_sz (r : Response) : (s.reply r).sz = s.sz := rfl
@[simp] theorem State.reply_ldc (r : Response) : (s.reply r).ldc = s.ldc := rfl
@[simp] theorem State.reply_sof (r : Response) : (s.reply r).sof = s.sof := rfl
@[simp] theorem State.reply_eof (r : Response) : (s.reply r).eof = s.eof := rfl
@[simp] theorem State.reply_xlen (r : Response) : (s.reply r).xlen = s.xlen := rfl
@[simp] theorem State.reply_sofOpen (r : Response) : (s.reply r).sofOpen = s.sofOpen := rfl
@[simp] theorem State.reply_fq (r : Response) : (s.reply r).fq = s.fq := rfl
@[simp] theorem State.reply_dmaLen (r : Response) : (s.reply r).dmaLen = s.dmaLen := rfl
@[simp] theorem State.reply_dmaRem (r : Response) : (s.reply r).dmaRem = s.dmaRem := rfl
@[simp] theorem State.reply_tick (r : Response) : (s.reply r).tick = s.tick := rfl
@[simp] theorem State.reply_samples (r : Response) : (s.reply r).samples = s.samples := rfl
@[simp] theorem State.reply_draws (r : Response) : (s.reply r).draws = s.draws := rfl
@[simp] theorem State.reply_pending (r : Response) : (s.reply r).pending = s.pending := rfl
@[simp] theorem State.reply_cmdWord (r : Response) : (s.reply r).cmdWord = s.cmdWord := rfl
@[simp] theorem State.reply_inBeats (r : Response) : (s.reply r).inBeats = [] := rfl
@[simp] theorem State.reply_trace (r : Response) : (s.reply r).trace = s.trace ++ [.transaction s.cmdWord s.inBeats r] := rfl

/-! ### setSof -/

@[simp] theorem State.setSof_params (bs : List Byte) : (s.setSof bs).params = s.params := rfl
@[simp] theorem State.setSof_mem (bs : List Byte) : (s.setSof bs).mem = s.mem := rfl
@[simp] theorem State.setSof_cap (bs : List Byte) : (s.setSof bs).cap = s.cap := rfl
@[simp] theorem State.setSof_rp (bs : List Byte) : (s.setSof bs).rp = s.rp := rfl
@[simp] theorem State.setSof_wp (bs : List Byte) : (s.setSof bs).wp = s.wp := rfl
@[simp] theorem State.setSof_sz (bs : List Byte) : (s.setSof bs).sz = s.sz := rfl
@[simp] theorem State.setSof_ldc (bs : List Byte) : (s.setSof bs).ldc = s.ldc := rfl
@[simp] theorem State.setSof_sof (bs : List Byte) : (s.setSof bs).sof = bs := rfl
@[simp] theorem State.setSof_eof (bs : List Byte) : (s.setSof bs).eof = s.eof := rfl
@[simp] theorem State.setSof_xlen (bs : List Byte) : (s.setSof bs).xlen = s.xlen := rfl
@[simp] theorem State.setSof_sofOpen (bs : List Byte) : (s.setSof bs).sofOpen = false := rfl
@[simp] theorem State.setSof_fq (bs : List Byte) : (s.setSof bs).fq = s.fq := rfl
@[simp] theorem State.setSof_dmaLen (bs : List Byte) : (s.setSof bs).dmaLen = s.dmaLen := rfl
@[simp] theorem State.setSof_dmaRem (bs : List Byte) : (s.setSof bs).dmaRem = s.dmaRem := rfl
@[simp] theorem State.setSof_tick (bs : List Byte) : (s.setSof bs).tick = s.tick := rfl
@[simp] theorem State.setSof_samples (bs : List Byte) : (s.setSof bs).samples = s.samples := rfl
@[simp] theorem State.setSof_draws (bs : List Byte) : (s.setSof bs).draws = s.draws := rfl
@[simp] theorem State.setSof_pending (bs : List Byte) : (s.setSof bs).pending = s.pending := rfl
@[simp] theorem State.setSof_cmdWord (bs : List Byte) : (s.setSof bs).cmdWord = s.cmdWord := rfl
@[simp] theorem State.setSof_inBeats (bs : List Byte) : (s.setSof bs).inBeats = s.inBeats := rfl
@[simp] theorem State.setSof_trace (bs : List Byte) : (s.setSof bs).trace = s.trace := rfl

/-! ### setEof -/

@[simp] theorem State.setEof_params (bs : List Byte) : (s.setEof bs).params = s.params := rfl
@[simp] theorem State.setEof_mem (bs : List Byte) : (s.setEof bs).mem = s.mem := rfl
@[simp] theorem State.setEof_cap (bs : List Byte) : (s.setEof bs).cap = s.cap := rfl
@[simp] theorem State.setEof_rp (bs : List Byte) : (s.setEof bs).rp = s.rp := rfl
@[simp] theorem State.setEof_wp (bs : List Byte) : (s.setEof bs).wp = s.wp := rfl
@[simp] theorem State.setEof_sz (bs : List Byte) : (s.setEof bs).sz = s.sz := rfl
@[simp] theorem State.setEof_ldc (bs : List Byte) : (s.setEof bs).ldc = s.ldc := rfl
@[simp] theorem State.setEof_sof (bs : List Byte) : (s.setEof bs).sof = s.sof := rfl
@[simp] theorem State.setEof_eof (bs : List Byte) : (s.setEof bs).eof = bs := rfl
@[simp] theorem State.setEof_xlen (bs : List Byte) : (s.setEof bs).xlen = s.xlen := rfl
@[simp] theorem State.setEof_sofOpen (bs : List Byte) : (s.setEof bs).sofOpen = s.sofOpen := rfl
@[simp] theorem State.setEof_fq (bs : List Byte) : (s.setEof bs).fq = s.fq := rfl
@[simp] theorem State.setEof_dmaLen (bs : List Byte) : (s.setEof bs).dmaLen = s.dmaLen := rfl
@[simp] theorem State.setEof_dmaRem (bs : List Byte) : (s.setEof bs).dmaRem = s.dmaRem := rfl
@[simp] theorem State.setEof_tick (bs : List Byte) : (s.setEof bs).tick = s.tick := rfl
@[simp] theorem State.setEof_samples (bs : List Byte) : (s.setEof bs).samples = s.samples := rfl
@[simp] theorem State.setEof_draws (bs : List Byte) : (s.setEof bs).draws = s.draws := rfl
@[simp] theorem State.setEof_pending (bs : List Byte) : (s.setEof bs).pending = s.pending := rfl
@[simp] theorem State.setEof_cmdWord (bs : List Byte) : (s.setEof bs).cmdWord = s.cmdWord := rfl
@[simp] theorem State.setEof_inBeats (bs : List Byte) : (s.setEof bs).inBeats = s.inBeats := rfl
@[simp] theorem State.setEof_trace (bs : List Byte) : (s.setEof bs).trace = s.trace := rfl

/-! ### setXlen -/

@[simp] theorem State.setXlen_params (n : Half) : (s.setXlen n).params = s.params := rfl
@[simp] theorem State.setXlen_mem (n : Half) : (s.setXlen n).mem = s.mem := rfl
@[simp] theorem State.setXlen_cap (n : Half) : (s.setXlen n).cap = s.cap := rfl
@[simp] theorem State.setXlen_rp (n : Half) : (s.setXlen n).rp = s.rp := rfl
@[simp] theorem State.setXlen_wp (n : Half) : (s.setXlen n).wp = s.wp := rfl
@[simp] theorem State.setXlen_sz (n : Half) : (s.setXlen n).sz = s.sz := rfl
@[simp] theorem State.setXlen_ldc (n : Half) : (s.setXlen n).ldc = s.ldc := rfl
@[simp] theorem State.setXlen_sof (n : Half) : (s.setXlen n).sof = s.sof := rfl
@[simp] theorem State.setXlen_eof (n : Half) : (s.setXlen n).eof = s.eof := rfl
@[simp] theorem State.setXlen_xlen (n : Half) : (s.setXlen n).xlen = n := rfl
@[simp] theorem State.setXlen_sofOpen (n : Half) : (s.setXlen n).sofOpen = s.sofOpen := rfl
@[simp] theorem State.setXlen_fq (n : Half) : (s.setXlen n).fq = s.fq := rfl
@[simp] theorem State.setXlen_dmaLen (n : Half) : (s.setXlen n).dmaLen = s.dmaLen := rfl
@[simp] theorem State.setXlen_dmaRem (n : Half) : (s.setXlen n).dmaRem = s.dmaRem := rfl
@[simp] theorem State.setXlen_tick (n : Half) : (s.setXlen n).tick = s.tick := rfl
@[simp] theorem State.setXlen_samples (n : Half) : (s.setXlen n).samples = s.samples := rfl
@[simp] theorem State.setXlen_draws (n : Half) : (s.setXlen n).draws = s.draws := rfl
@[simp] theorem State.setXlen_pending (n : Half) : (s.setXlen n).pending = s.pending := rfl
@[simp] theorem State.setXlen_cmdWord (n : Half) : (s.setXlen n).cmdWord = s.cmdWord := rfl
@[simp] theorem State.setXlen_inBeats (n : Half) : (s.setXlen n).inBeats = s.inBeats := rfl
@[simp] theorem State.setXlen_trace (n : Half) : (s.setXlen n).trace = s.trace := rfl

/-! ### resized -/

@[simp] theorem State.resized_params (n : Nat) : (s.resized n).params = s.params := rfl
@[simp] theorem State.resized_mem (n : Nat) : (s.resized n).mem = Memory.ofBytes 0 (s.memRead s.rp (min s.sz n)) := rfl
@[simp] theorem State.resized_cap (n : Nat) : (s.resized n).cap = n := rfl
@[simp] theorem State.resized_rp (n : Nat) : (s.resized n).rp = 0 := rfl
@[simp] theorem State.resized_wp (n : Nat) : (s.resized n).wp = wrap n (min s.sz n : Nat) := rfl
@[simp] theorem State.resized_sz (n : Nat) : (s.resized n).sz = min s.sz n := rfl
@[simp] theorem State.resized_ldc (n : Nat) : (s.resized n).ldc = 0 := rfl
@[simp] theorem State.resized_sof (n : Nat) : (s.resized n).sof = s.sof := rfl
@[simp] theorem State.resized_eof (n : Nat) : (s.resized n).eof = s.eof := rfl
@[simp] theorem State.resized_xlen (n : Nat) : (s.resized n).xlen = s.xlen := rfl
@[simp] theorem State.resized_sofOpen (n : Nat) : (s.resized n).sofOpen = s.sofOpen := rfl
@[simp] theorem State.resized_fq (n : Nat) : (s.resized n).fq = s.fq := rfl
@[simp] theorem State.resized_dmaLen (n : Nat) : (s.resized n).dmaLen = s.dmaLen := rfl
@[simp] theorem State.resized_dmaRem (n : Nat) : (s.resized n).dmaRem = s.dmaRem := rfl
@[simp] theorem State.resized_tick (n : Nat) : (s.resized n).tick = s.tick := rfl
@[simp] theorem State.resized_samples (n : Nat) : (s.resized n).samples = s.samples := rfl
@[simp] theorem State.resized_draws (n : Nat) : (s.resized n).draws = s.draws + 1 := rfl
@[simp] theorem State.resized_pending (n : Nat) : (s.resized n).pending = s.pending := rfl
@[simp] theorem State.resized_cmdWord (n : Nat) : (s.resized n).cmdWord = s.cmdWord := rfl
@[simp] theorem State.resized_inBeats (n : Nat) : (s.resized n).inBeats = s.inBeats := rfl
@[simp] theorem State.resized_trace (n : Nat) : (s.resized n).trace = s.trace := rfl

/-! ### reconcile -/

@[simp] theorem State.reconcile_params (rem : Nat) (d : Int) : (s.reconcile rem d).params = s.params := rfl
@[simp] theorem State.reconcile_mem (rem : Nat) (d : Int) : (s.reconcile rem d).mem = s.mem := rfl
@[simp] theorem State.reconcile_cap (rem : Nat) (d : Int) : (s.reconcile rem d).cap = s.cap := rfl
@[simp] theorem State.reconcile_wp (rem : Nat) (d : Int) : (s.reconcile rem d).wp = wrap s.cap ((s.wp : Int) + d) := rfl
@[simp] theorem State.reconcile_ldc (rem : Nat) (d : Int) : (s.reconcile rem d).ldc = s.cap - rem := rfl
@[simp] theorem State.reconcile_sof (rem : Nat) (d : Int) : (s.reconcile rem d).sof = s.sof := rfl
@[simp] theorem State.reconcile_eof (rem : Nat) (d : Int) : (s.reconcile rem d).eof = s.eof := rfl
@[simp] theorem State.reconcile_xlen (rem : Nat) (d : Int) : (s.reconcile rem d).xlen = s.xlen := rfl
@[simp] theorem State.reconcile_sofOpen (rem : Nat) (d : Int) : (s.reconcile rem d).sofOpen = s.sofOpen := rfl
@[simp] theorem State.reconcile_fq (rem : Nat) (d : Int) : (s.reconcile rem d).fq = s.fq := rfl
@[simp] theorem State.reconcile_dmaLen (rem : Nat) (d : Int) : (s.reconcile rem d).dmaLen = s.dmaLen := rfl
@[simp] theorem State.reconcile_dmaRem (rem : Nat) (d : Int) : (s.reconcile rem d).dmaRem = s.dmaRem := rfl
@[simp] theorem State.reconcile_tick (rem : Nat) (d : Int) : (s.reconcile rem d).tick = s.tick := rfl
@[simp] theorem State.reconcile_samples (rem : Nat) (d : Int) : (s.reconcile rem d).samples = s.samples := rfl
@[simp] theorem State.reconcile_draws (rem : Nat) (d : Int) : (s.reconcile rem d).draws = s.draws := rfl
@[simp] theorem State.reconcile_pending (rem : Nat) (d : Int) : (s.reconcile rem d).pending = s.pending := rfl
@[simp] theorem State.reconcile_cmdWord (rem : Nat) (d : Int) : (s.reconcile rem d).cmdWord = s.cmdWord := rfl
@[simp] theorem State.reconcile_inBeats (rem : Nat) (d : Int) : (s.reconcile rem d).inBeats = s.inBeats := rfl
@[simp] theorem State.reconcile_trace (rem : Nat) (d : Int) : (s.reconcile rem d).trace = s.trace := rfl

/-! ### hardwareReset -/

@[simp] theorem State.hardwareReset_params : (s.hardwareReset).params = s.params := rfl
@[simp] theorem State.hardwareReset_mem : (s.hardwareReset).mem = Memory.initial s.params := rfl
@[simp] theorem State.hardwareReset_cap : (s.hardwareReset).cap = s.params.cinit := rfl
@[simp] theorem State.hardwareReset_rp : (s.hardwareReset).rp = 0 := rfl
@[simp] theorem State.hardwareReset_wp : (s.hardwareReset).wp = 0 := rfl
@[simp] theorem State.hardwareReset_sz : (s.hardwareReset).sz = 0 := rfl
@[simp] theorem State.hardwareReset_ldc : (s.hardwareReset).ldc = 0 := rfl
@[simp] theorem State.hardwareReset_sof : (s.hardwareReset).sof = [] := rfl
@[simp] theorem State.hardwareReset_eof : (s.hardwareReset).eof = [] := rfl
@[simp] theorem State.hardwareReset_xlen : (s.hardwareReset).xlen = 0#16 := rfl
@[simp] theorem State.hardwareReset_sofOpen : (s.hardwareReset).sofOpen = false := rfl
@[simp] theorem State.hardwareReset_fq : (s.hardwareReset).fq = [] := rfl
@[simp] theorem State.hardwareReset_dmaLen : (s.hardwareReset).dmaLen = s.dmaLen := rfl
@[simp] theorem State.hardwareReset_dmaRem : (s.hardwareReset).dmaRem = s.dmaRem := rfl
@[simp] theorem State.hardwareReset_tick : (s.hardwareReset).tick = s.tick := rfl
@[simp] theorem State.hardwareReset_samples : (s.hardwareReset).samples = s.samples := rfl
@[simp] theorem State.hardwareReset_draws : (s.hardwareReset).draws = s.draws := rfl
@[simp] theorem State.hardwareReset_pending : (s.hardwareReset).pending = s.pending := rfl
@[simp] theorem State.hardwareReset_cmdWord : (s.hardwareReset).cmdWord = s.cmdWord := rfl
@[simp] theorem State.hardwareReset_inBeats : (s.hardwareReset).inBeats = s.inBeats := rfl
@[simp] theorem State.hardwareReset_trace : (s.hardwareReset).trace = s.trace := rfl

end Sys2Proof.Machine
end

