-- ==== Sys2Proof/Laws/Ops.lean ====
section
/-! SUPPORT. One lemma for each thing the shared operations do: `wrap`, the channel, the search. -/

namespace Sys2Proof.Machine

/-! ### wrap (R5) -/

theorem wrap_nat (cap a : Nat) : wrap cap (a : Nat) = if cap = 0 then 0 else a % cap := by
  unfold wrap
  split
  · rfl
  · rw [← Int.natCast_emod]; exact Int.toNat_natCast _

@[simp] theorem wrap_cap_zero (a : Int) : wrap 0 a = 0 := rfl

theorem wrap_nat_of_pos {cap : Nat} (h : 0 < cap) (a : Nat) : wrap cap (a : Nat) = a % cap := by
  rw [wrap_nat, if_neg (by omega)]

theorem wrap_lt {cap : Nat} (h : 0 < cap) (a : Int) : wrap cap a < cap := by
  have h1 := Int.emod_nonneg a (b := (cap : Int)) (by omega)
  have h2 := Int.emod_lt_of_pos a (b := (cap : Int)) (by omega)
  unfold wrap; rw [if_neg (by omega)]; omega

theorem wrap_nat_of_lt {cap a : Nat} (h : a < cap) : wrap cap (a : Nat) = a := by
  rw [wrap_nat_of_pos (by omega), Nat.mod_eq_of_lt h]

theorem wrap_zero (cap : Nat) : wrap cap (0 : Nat) = 0 := by
  rw [wrap_nat]; simp

/-- A reduced cursor advances as the unreduced one does ("advanced modulo C", R89). -/
theorem wrap_wrap_add (cap a b : Nat) : wrap cap (wrap cap (a : Nat) + b : Nat) = wrap cap (a + b : Nat) := by
  simp only [wrap_nat]
  split <;> simp_all [Nat.add_mod]

/-- Two integers that differ by a multiple of cap are the same position. -/
theorem wrap_add_mul (cap : Nat) (a k : Int) : wrap cap (a + cap * k) = wrap cap a := by
  unfold wrap
  split
  · rfl
  · rw [Int.add_mul_emod_self_left]

/-- `wrap` as an integer: the canonical residue. -/
theorem wrap_cast {cap : Nat} (h : 0 < cap) (a : Int) : ((wrap cap a : Nat) : Int) = a % (cap : Int) := by
  have h1 := Int.emod_nonneg a (b := (cap : Int)) (by omega)
  unfold wrap; rw [if_neg (by omega)]; omega

/-- Distinct offsets below cap address distinct cells. -/
theorem wrap_inj {cap a i j : Nat} (hi : i < cap) (hj : j < cap)
    (h : wrap cap (a + i : Nat) = wrap cap (a + j : Nat)) : i = j := by
  rw [wrap_nat_of_pos (by omega), wrap_nat_of_pos (by omega)] at h
  have := Nat.ModEq.add_left_cancel' a h
  rwa [Nat.ModEq, Nat.mod_eq_of_lt hi, Nat.mod_eq_of_lt hj] at this

/-! ### The channel -/

theorem State.transact_eq {s : State} {n : Nat} (h : s.inBeats.length = n) (body : Result) :
    s.transact n body = body := by
  unfold State.transact; rw [if_pos h]

theorem State.transact_malformed {s : State} {n : Nat} (h : s.inBeats.length ≠ n) (body : Result) :
    s.transact n body = .refused .malformedTransaction := by
  unfold State.transact; rw [if_neg h]

/-- With no input beats a command that takes none runs. -/
theorem State.transact_nil {s : State} (h : s.inBeats = []) (body : Result) : s.transact 0 body = body :=
  State.transact_eq (by simp [h]) body

theorem responseWord_st (st : Status) (val : Half) : (responseWord st val).extractLsb' 28 4 = st.code := by
  unfold responseWord
  rw [BitVec.extractLsb'_append_eq_of_le (v := 4 + 12) (by omega)]
  exact BitVec.extractLsb'_append_eq_left

theorem responseWord_val (st : Status) (val : Half) : (responseWord st val).extractLsb' 0 16 = val := by
  unfold responseWord
  rw [BitVec.extractLsb'_append_eq_of_add_le (v := 4 + 12) (by omega)]; simp

theorem responseWord_middle (st : Status) (val : Half) : (responseWord st val).extractLsb' 16 12 = 0#12 := by
  unfold responseWord
  rw [BitVec.extractLsb'_append_eq_of_le (v := 4 + 12) (by omega), BitVec.extractLsb'_append_eq_of_add_le (by omega)]
  rfl

/-! ### The search (R145) -/

/-- `find` gives an index at which the whole pattern matches and before which it matches nowhere. -/
theorem find_some {pat bs : List Byte} {q : Nat} (h : find pat bs = some q) :
    pat.isPrefixOf (bs.drop q) = true ∧ (∀ k < q, pat.isPrefixOf (bs.drop k) = false) ∧ q + pat.length ≤ bs.length := by
  induction bs generalizing q with
  | nil =>
    simp only [find] at h
    split at h
    · next hp => cases h; subst hp; simp
    · cases h
  | cons b rest ih =>
    simp only [find] at h
    split at h
    · next hp =>
      cases h
      refine ⟨by simpa using hp, by simp, ?_⟩
      have := List.IsPrefix.length_le (List.isPrefixOf_iff_prefix.mp hp)
      omega
    · next hp =>
      rw [Option.map_eq_some_iff] at h
      obtain ⟨q', h', rfl⟩ := h
      obtain ⟨h1, h2, h3⟩ := ih h'
      refine ⟨by simpa using h1, ?_, by simp only [List.length_cons]; omega⟩
      intro k hk
      cases k with
      | zero => simpa only [List.drop_zero, Bool.not_eq_true] using hp
      | succ k => simpa using h2 k (by omega)

/-- `find` gives none exactly when a non-empty pattern matches at no index. -/
theorem find_none_iff {pat : List Byte} (hp : pat ≠ []) (bs : List Byte) :
    find pat bs = none ↔ ∀ k, pat.isPrefixOf (bs.drop k) = false := by
  induction bs with
  | nil => cases pat with
    | nil => exact absurd rfl hp
    | cons a r => simp [find]
  | cons b rest ih =>
    simp only [find]
    split
    · next h =>
      constructor
      · intro h'; cases h'
      · intro h'; have := h' 0; rw [List.drop_zero, h] at this; cases this
    · next h =>
      rw [Option.map_eq_none_iff, ih]
      constructor
      · intro h' k
        cases k with
        | zero => simpa only [List.drop_zero, Bool.not_eq_true] using h
        | succ k => simpa using h' k
      · intro h' k; simpa using h' (k + 1)

/-- The pattern stands where `find` says. -/
theorem find_split {pat bs : List Byte} {q : Nat} (h : find pat bs = some q) :
    bs = bs.take q ++ pat ++ bs.drop (q + pat.length) := by
  obtain ⟨h1, -, -⟩ := find_some h
  obtain ⟨r, hr⟩ := List.isPrefixOf_iff_prefix.mp h1
  have h2 : bs.drop (q + pat.length) = r := by
    rw [← List.drop_drop, ← hr]; simp
  rw [h2, List.append_assoc, hr, List.take_append_drop]

/-- Two matches of a pattern at the lowest index are the same. -/
theorem find_eq_of_first {pat bs : List Byte} {q : Nat} (hp : pat ≠ []) (h1 : pat.isPrefixOf (bs.drop q) = true)
    (h2 : ∀ k < q, pat.isPrefixOf (bs.drop k) = false) : find pat bs = some q := by
  cases h : find pat bs with
  | none => have := (find_none_iff hp bs).mp h q; simp_all
  | some q' =>
    obtain ⟨h3, h4, -⟩ := find_some h
    rcases Nat.lt_trichotomy q q' with hlt | heq | hgt
    · have := h4 q hlt; simp_all
    · rw [heq]
    · have := h2 q' hgt; simp_all

end Sys2Proof.Machine
end

