-- ==== Sys2Proof/Laws/PerInstr.lean ====
section
/-! SUPPORT. The per-instruction family EncodedRow: a command's word meets its own row of the opcode map
(spec/30_encoding.md R67). -/

namespace Sys2Proof.Laws.EncodedRow

/-- The encoded word, masked, is the row's match. -/
def Statement (i : Instr) : Prop := encode i &&& i.row.mask = i.row.value

/-- A word of two upper constant bytes and a free operand, under the mask of its upper half. -/
theorem masked_operand (hi : BitVec 8) (imm : Half) :
    ((hi ++ 0#8 ++ imm : Word) &&& 0xFFFF0000#32) = hi ++ 0#8 ++ 0#16 := by
  have h := BitVec.and_append (x₁ := hi ++ 0#8) (x₂ := 0xFFFF#16) (y₁ := imm) (y₂ := 0#16)
  rw [BitVec.and_zero, show (0xFFFF#16 : BitVec (8 + 8)) = BitVec.allOnes 16 from rfl, BitVec.and_allOnes] at h
  exact h

theorem nop : Statement .nop := by unfold Statement; decide

theorem push (v : Byte) : Statement (.push v) := by
  have h := BitVec.and_append (x₁ := 0x10#8 ++ 0#8) (x₂ := 0xFFFF#16) (y₁ := 0#8 ++ v) (y₂ := 0xFF#8 ++ 0#8)
  have h' := BitVec.and_append (x₁ := 0#8) (x₂ := 0xFF#8) (y₁ := v) (y₂ := 0#8)
  rw [BitVec.and_zero] at h'
  rw [h'] at h
  exact h

theorem pushn (len : Half) : Statement (.pushn len) := masked_operand 0x11#8 len
theorem pop : Statement .pop := by unfold Statement; decide
theorem popn (n : Half) : Statement (.popn n) := masked_operand 0x13#8 n
theorem read (len : Half) : Statement (.read len) := masked_operand 0x14#8 len
theorem peek : Statement .peek := by unfold Statement; decide
theorem peekn (len : Half) : Statement (.peekn len) := masked_operand 0x16#8 len
theorem index (i : Half) : Statement (.index i) := masked_operand 0x17#8 i
theorem dmasync (rem : Half) : Statement (.dmasync rem) := masked_operand 0x18#8 rem
theorem setrp (pos : Half) : Statement (.setrp pos) := masked_operand 0x19#8 pos
theorem resize (newcap : Half) : Statement (.resize newcap) := masked_operand 0x1A#8 newcap
theorem clear : Statement .clear := by unfold Statement; decide
theorem run : Statement .run := by unfold Statement; decide
theorem recv : Statement .recv := by unfold Statement; decide
theorem setsof (len : Half) : Statement (.setsof len) := masked_operand 0x22#8 len
theorem clrsof : Statement .clrsof := by unfold Statement; decide
theorem seteof (len : Half) : Statement (.seteof len) := masked_operand 0x24#8 len
theorem clreof : Statement .clreof := by unfold Statement; decide
theorem setlen (len : Half) : Statement (.setlen len) := masked_operand 0x26#8 len
theorem clrlen : Statement .clrlen := by unfold Statement; decide
theorem frames : Statement .frames := by unfold Statement; decide
theorem bytes : Statement .bytes := by unfold Statement; decide
theorem rdsr (r : Half) : Statement (.rdsr r) := masked_operand 0x30#8 r

end Sys2Proof.Laws.EncodedRow
end

