-- ==== Sys2Proof/Laws/Store.lean ====
section
/-! SUPPORT. The laws of storage: read after write, the canonical form, MemRead and MemWrite. -/

namespace Sys2Proof.Machine

/-! ### Memory -/

theorem Memory.read_cons (c : Host.Cell) (m : Memory) (a : Nat) :
    Memory.read (c :: m) a = if a = c.1 then some c.2 else Memory.read m a := by
  obtain ⟨i, v⟩ := c
  unfold Memory.read
  rw [List.lookup_cons]
  by_cases h : a = i
  · simp [h]
  · rw [if_neg h, beq_false_of_ne h]

/-- A cell below every listed one is unspecified. -/
theorem Memory.read_of_lt {m : Memory} {a : Nat} (h : ∀ c ∈ m, a < c.1) : m.read a = none := by
  induction m with
  | nil => rfl
  | cons c m ih =>
    rw [Memory.read_cons, if_neg (by have := h c (by simp); omega)]
    exact ih fun d hd => h d (by simp [hd])

/-- Read after write, in every memory of canonical form or not. -/
theorem Memory.read_write_same (m : Memory) (a : Nat) (v : Byte) : (m.write a v).read a = some v := by
  induction m with
  | nil => simp [Memory.write, Memory.read_cons]
  | cons c m ih =>
    unfold Memory.write
    split
    · simp [Memory.read_cons]
    · split
      · simp [Memory.read_cons]
      · next h => rw [Memory.read_cons, if_neg h]; exact ih

/-- A write leaves every other cell alone. -/
theorem Memory.read_write_other (m : Memory) {a b : Nat} (h : b ≠ a) (v : Byte) : (m.write a v).read b = m.read b := by
  induction m with
  | nil => simp [Memory.write, Memory.read_cons, h]
  | cons c m ih =>
    unfold Memory.write
    split
    · rw [Memory.read_cons, if_neg h]
    · split
      · next hc => rw [Memory.read_cons, if_neg h, Memory.read_cons, if_neg (by omega)]
      · rw [Memory.read_cons, Memory.read_cons, ih]

theorem Memory.read_write (m : Memory) (a b : Nat) (v : Byte) :
    (m.write a v).read b = if b = a then some v else m.read b := by
  split
  · next h => rw [h]; exact Memory.read_write_same m a v
  · next h => exact Memory.read_write_other m h v

/-- What a written memory lists: the written cell and what it listed before. -/
theorem Memory.mem_write {m : Memory} {a : Nat} {v : Byte} {c : Host.Cell} (h : c ∈ m.write a v) :
    c = (a, v) ∨ c ∈ m := by
  induction m with
  | nil => simpa [Memory.write] using h
  | cons d m ih =>
    unfold Memory.write at h
    split at h
    · simpa using h
    · split at h
      · rcases List.mem_cons.mp h with h | h
        · exact .inl h
        · exact .inr (by simp [h])
      · rcases List.mem_cons.mp h with h | h
        · exact .inr (by simp [h])
        · rcases ih h with h | h
          · exact .inl h
          · exact .inr (by simp [h])

/-- A write keeps the canonical form. -/
theorem Memory.write_wf {m : Memory} (h : m.wf) (a : Nat) (v : Byte) : (m.write a v).wf := by
  induction m with
  | nil => simp [Memory.write]
  | cons c m ih =>
    rw [Memory.wf, List.pairwise_cons] at h
    unfold Memory.write
    split
    · next hlt =>
      refine List.pairwise_cons.mpr ⟨?_, List.pairwise_cons.mpr h⟩
      intro d hd
      rcases List.mem_cons.mp hd with rfl | hd
      · exact hlt
      · exact Nat.lt_trans hlt (h.1 d hd)
    · split
      · next heq =>
        refine List.pairwise_cons.mpr ⟨?_, h.2⟩
        intro d hd
        have := h.1 d hd
        simp only; omega
      · next h1 h2 =>
        refine List.pairwise_cons.mpr ⟨?_, ih h.2⟩
        intro d hd
        rcases Memory.mem_write hd with rfl | hd
        · simp only; omega
        · exact h.1 d hd

theorem Memory.mem_ofBytes {a : Nat} {bs : List Byte} {c : Host.Cell} (h : c ∈ Memory.ofBytes a bs) :
    a ≤ c.1 ∧ c.1 < a + bs.length := by
  induction bs generalizing a with
  | nil => simp [Memory.ofBytes] at h
  | cons b bs ih =>
    rcases List.mem_cons.mp h with rfl | h
    · simp
    · have := ih h; simp only [List.length_cons]; omega

theorem Memory.ofBytes_wf (a : Nat) (bs : List Byte) : (Memory.ofBytes a bs).wf := by
  induction bs generalizing a with
  | nil => simp [Memory.ofBytes]
  | cons b bs ih =>
    refine List.pairwise_cons.mpr ⟨fun d hd => ?_, ih (a + 1)⟩
    have := Memory.mem_ofBytes hd
    simp only; omega

/-- Storage laid out from cell 0 reads as the sequence, and is unspecified beyond it. -/
theorem Memory.read_ofBytes (a i : Nat) (bs : List Byte) : (Memory.ofBytes a bs).read (a + i) = bs[i]? := by
  induction bs generalizing a i with
  | nil => simp [Memory.ofBytes, Memory.read]
  | cons b bs ih =>
    unfold Memory.ofBytes
    rw [Memory.read_cons]
    cases i with
    | zero => simp
    | succ i =>
      rw [if_neg (by simp only; omega), show a + (i + 1) = (a + 1) + i by omega, ih]; simp

theorem Memory.read_ofBytes_zero (i : Nat) (bs : List Byte) : (Memory.ofBytes 0 bs).read i = bs[i]? := by
  simpa using Memory.read_ofBytes 0 i bs

theorem Memory.initial_wf (p : Params) : (Memory.initial p).wf := by
  unfold Memory.initial
  split
  · exact Memory.ofBytes_wf _ _
  · simp

/-! ### MemRead and the content -/

@[simp] theorem State.memRead_length (s : State) (addr n : Nat) : (s.memRead addr n).length = n := by
  simp [State.memRead]

@[simp] theorem State.lseq_length (s : State) : s.lseq.length = s.sz := by simp [State.lseq]

@[simp] theorem State.content_length (s : State) : s.content.length = s.sz := by simp [State.content]

/-- A read of a specified cell gives its value. -/
theorem State.cell_of_read {s : State} {a : Nat} {v : Byte} (h : s.mem.read a = some v) : s.cell a = v := by
  simp [State.cell, h]

theorem State.memRead_getElem (s : State) (addr n j : Nat) (h : j < (s.memRead addr n).length) :
    (s.memRead addr n)[j] = s.cell (wrap s.cap (addr + j : Nat)) := by
  simp [State.memRead]

theorem State.content_getElem (s : State) (i : Nat) (h : i < s.content.length) :
    s.content[i] = s.mem.read (s.readAddr i) := by
  simp [State.content]

/-- A prefix of what is read is a shorter read. -/
theorem State.memRead_take (s : State) (addr n k : Nat) (h : k ≤ n) :
    (s.memRead addr n).take k = s.memRead addr k := by
  apply List.ext_getElem
  · simp; omega
  · intro i h1 h2
    simp [State.memRead]

/-- What MemRead finds from the read cursor on agrees with the content. -/
theorem State.memRead_agrees (s : State) {k : Nat} (h : k ≤ s.sz) :
    Agrees (s.memRead s.rp k) (s.content.take k) := by
  rw [Agrees, List.forall₂_iff_get]
  refine ⟨by simp; omega, ?_⟩
  intro i h1 h2 x hx
  simp only [List.get_eq_getElem, List.getElem_take, State.content_getElem] at hx
  simp only [List.get_eq_getElem, State.memRead_getElem]
  exact State.cell_of_read hx

/-! ### MemWrite -/

/-- MemWrite changes storage alone. -/
theorem State.memWrite_eq (s : State) (addr : Nat) (vs : List Byte) :
    s.memWrite addr vs = { s with mem := (s.memWrite addr vs).mem } := by
  induction vs generalizing s addr with
  | nil => rfl
  | cons v vs ih => unfold State.memWrite; rw [ih]; rfl

/-- MemWrite of at most cap elements puts the j-th in cell wrap(addr + j). -/
theorem State.memWrite_read (s : State) (addr : Nat) (vs : List Byte) (hn : vs.length ≤ s.cap) (j : Nat) (hj : j < vs.length) :
    (s.memWrite addr vs).mem.read (wrap s.cap (addr + j : Nat)) = some vs[j] := by
  have frame : ∀ (vs : List Byte) (u : State) (addr a : Nat), (∀ j < vs.length, a ≠ wrap u.cap (addr + j : Nat)) →
      (u.memWrite addr vs).mem.read a = u.mem.read a := by
    intro vs
    induction vs with
    | nil => intros; rfl
    | cons v vs ih =>
      intro u addr a h
      unfold State.memWrite
      rw [ih]
      · simp only [State.writeCell_mem]
        exact Memory.read_write_other _ (by simpa using h 0 (by simp)) _
      · intro j hj
        simpa [Nat.add_assoc, Nat.add_comm 1] using h (j + 1) (by simpa using hj)
  induction vs generalizing s addr j with
  | nil => simp at hj
  | cons v vs ih =>
    unfold State.memWrite
    cases j with
    | zero =>
      rw [frame]
      · simp [Memory.read_write_same]
      · intro j hj h
        have := wrap_inj (a := addr) (i := 0) (j := j + 1) (cap := s.cap) (by simp at hn; omega) (by simp at hn; omega)
          (by simpa [Nat.add_assoc, Nat.add_comm 1] using h)
        omega
    | succ j =>
      have := ih (s.writeCell (wrap s.cap (addr : Nat)) v) (addr + 1) (by simp at hn ⊢; omega) j (by simpa using hj)
      simpa [Nat.add_assoc, Nat.add_comm 1] using this

/-- MemWrite leaves every cell alone that it does not write. -/
theorem State.memWrite_read_other (s : State) (addr : Nat) (vs : List Byte) (a : Nat)
    (h : ∀ j < vs.length, a ≠ wrap s.cap (addr + j : Nat)) : (s.memWrite addr vs).mem.read a = s.mem.read a := by
  induction vs generalizing s addr with
  | nil => rfl
  | cons v vs ih =>
    unfold State.memWrite
    rw [ih]
    · simp only [State.writeCell_mem]
      exact Memory.read_write_other _ (by simpa using h 0 (by simp)) _
    · intro j hj
      simpa [Nat.add_assoc, Nat.add_comm 1] using h (j + 1) (by simpa using hj)

/-- MemWrite keeps the canonical form. -/
theorem State.memWrite_wf (s : State) (addr : Nat) (vs : List Byte) (h : s.mem.wf) : (s.memWrite addr vs).mem.wf := by
  induction vs generalizing s addr with
  | nil => exact h
  | cons v vs ih => unfold State.memWrite; exact ih _ _ (Memory.write_wf h _ _)

/-- MemWrite lists no cell at or beyond cap that was not listed before. -/
theorem State.mem_memWrite (s : State) (addr : Nat) (vs : List Byte) {c : Host.Cell}
    (h : c ∈ (s.memWrite addr vs).mem) : c ∈ s.mem ∨ (∃ a : Int, c.1 = wrap s.cap a) := by
  induction vs generalizing s addr with
  | nil => exact .inl h
  | cons v vs ih =>
    unfold State.memWrite at h
    rcases ih _ _ h with h | h
    · rcases Memory.mem_write h with rfl | h
      · exact .inr ⟨_, rfl⟩
      · exact .inl h
    · exact .inr (by simpa using h)

end Sys2Proof.Machine
end

