-- ==== Sys2Proof/Laws/Scan.lean ====
section
/-! SUPPORT. The laws of the scan of RUN and of the environment's steps: what one pass may do, an induction over the passes,
what the scan leaves alone, and what an environment step that answers next has done. -/

namespace Sys2Proof.Machine

/-! ### One pass (R141 to R144) -/

/-- A pass that opens a frame runs in start-delimiter mode on a closed ring, at an occurrence inside the valid bytes. -/
theorem State.decidePass_openFrame {s : State} {md : Mode} {k : Nat} (h : s.decidePass md s.lseq = .openFrame k) :
    md = .sof ∧ s.sofOpen = false ∧ s.sof.length ≤ k ∧ k ≤ s.sz
      ∧ ∃ q, find s.sof s.lseq = some q ∧ k = q + s.sof.length := by
  cases md with
  | none => simp [State.decidePass] at h
  | fixed => simp only [State.decidePass] at h; split at h <;> simp at h
  | eof => simp only [State.decidePass] at h; split at h <;> simp at h
  | sof =>
    simp only [State.decidePass] at h
    split at h
    · simp at h
    · next q hq =>
      split at h
      · simp at h
      · next ho =>
        injection h with h
        have := (find_some hq).2.2
        rw [State.lseq_length] at this
        exact ⟨rfl, by simpa using ho, by omega, by omega, q, hq, h.symm⟩

/-- A pass that completes a frame consumes its payload and at most the valid bytes; it says in which mode and where. -/
theorem State.decidePass_frame {s : State} {md : Mode} {q c : Nat} (h : s.decidePass md s.lseq = .frame q c) :
    q ≤ c ∧ c ≤ s.sz ∧
      (md = .fixed ∧ q = s.xlen.toNat ∧ c = s.xlen.toNat
        ∨ md = .eof ∧ find s.eof s.lseq = some q ∧ c = q + s.eof.length
        ∨ md = .sof ∧ s.sofOpen = true ∧ find s.sof s.lseq = some q ∧ c = q + s.sof.length) := by
  cases md with
  | none => simp [State.decidePass] at h
  | fixed =>
    simp only [State.decidePass] at h
    split at h
    · simp at h
    · injection h with h1 h2
      exact ⟨by omega, by omega, .inl ⟨rfl, h1.symm, h2.symm⟩⟩
  | eof =>
    simp only [State.decidePass] at h
    split at h
    · simp at h
    · next p hp =>
      injection h with h1 h2
      have := (find_some hp).2.2
      rw [State.lseq_length] at this
      exact ⟨by omega, by omega, .inr (.inl ⟨rfl, by rw [hp, h1], by omega⟩)⟩
  | sof =>
    simp only [State.decidePass] at h
    split at h
    · simp at h
    · next p hp =>
      split at h
      · next ho =>
        injection h with h1 h2
        have := (find_some hp).2.2
        rw [State.lseq_length] at this
        exact ⟨by omega, by omega, .inr (.inr ⟨rfl, ho, by rw [hp, h1], by omega⟩)⟩
      · simp at h

/-! ### Induction over the passes -/

/-- What holds of the state and the count before the scan and is kept by every pass holds after it. -/
theorem scan_induct {md : Mode} (P : State → Nat → Prop)
    (read : ∀ s n, P s n → P s.drawn n)
    (opened : ∀ s n k, P s n → s.decidePass md s.lseq = .openFrame k → P (s.drawn.openFrameAfter k) n)
    (framed : ∀ s n q c, P s n → s.decidePass md s.lseq = .frame q c → s.fqFull = false →
      P (s.drawn.extract (s.lseq.take q) c) (n + 1))
    (fuel : Nat) (s : State) (n : Nat) (h : P s n) : P (scan md fuel s n).1 (scan md fuel s n).2.1 := by
  induction fuel generalizing s n with
  | zero => exact h
  | succ fuel ih =>
    unfold scan
    split
    · exact read s n h
    · next hd => exact ih _ _ (opened s n _ h hd)
    · next hd =>
      split
      · exact read s n h
      · next hf => exact ih _ _ (framed s n _ _ h hd (by simpa using hf))

/-- The scan "never writes `mem`, `wp`, `cap`, `ldc` or the configuration" (R140), nor anything of the agents, nor the
channel. -/
theorem scan_frame (md : Mode) (fuel : Nat) (s : State) (n : Nat) :
    let t := (scan md fuel s n).1
    t.mem = s.mem ∧ t.wp = s.wp ∧ SameShape s t ∧ SameConfig s t ∧ SameAgents s t ∧ t.inBeats = s.inBeats
      ∧ t.trace = s.trace := by
  refine scan_induct (md := md) (fun t _ => t.mem = s.mem ∧ t.wp = s.wp ∧ SameShape s t ∧ SameConfig s t ∧ SameAgents s t
    ∧ t.inBeats = s.inBeats ∧ t.trace = s.trace) ?_ ?_ ?_ fuel s n ?_
  · intro u _ h; exact h
  · intro u _ k h _; exact h
  · intro u _ q c h _ _; exact h
  · exact ⟨rfl, rfl, ⟨rfl, rfl⟩, ⟨rfl, rfl, rfl⟩, ⟨rfl, rfl, rfl, rfl, rfl⟩, rfl, rfl⟩

/-! ### The environment's steps -/

/-- What the DMA write port has done when it answers next (R45). -/
theorem dmaWrite_next {s t : State} {b : Byte} (h : dmaWrite b s = .next t) :
    s.dmaRem ≠ 0 ∧ s.dmaIndex < s.params.cmax ∧ t = { s.writeCell s.dmaIndex b with dmaRem := s.dmaRem - 1 } := by
  unfold dmaWrite at h
  split at h
  · cases h
  · split at h
    · next h1 h2 => injection h with h; exact ⟨h1, h2, h.symm⟩
    · cases h

/-- What the reload step has done when it answers next (R46). -/
theorem dmaReload_next {s t : State} (h : dmaReload s = .next t) :
    s.dmaRem = 0 ∧ 1 ≤ s.dmaLen ∧ t = { s with dmaRem := s.dmaLen } := by
  unfold dmaReload at h
  split at h
  · next hc => injection h with h; exact ⟨hc.1, hc.2, h.symm⟩
  · cases h

/-- What the start has done when it answers next (R47). -/
theorem dmaStart_next {s t : State} {n : Nat} (h : dmaStart n s = .next t) :
    n ≤ s.params.cmax ∧ t = { s with dmaLen := n, dmaRem := n } := by
  unfold dmaStart at h
  split at h
  · next hc => injection h with h; exact ⟨hc, h.symm⟩
  · cases h

/-- The tick sample is never below the last one (R170). -/
theorem State.tick_le_tickSample (s : State) : s.tick ≤ s.tickSample := by
  unfold State.tickSample
  split
  · exact BitVec.le_refl _
  · next h => exact BitVec.not_lt.mp h

end Sys2Proof.Machine
end

