-- ==== Sys2Proof/Tests/Slice0.lean ====
section
/-! SUPPORT. The model's own tests: the checks of WellFormed, words written out from the spec's encodings, one step a command on
small states (expected results from spec/95_test_vectors.md and the rules' worked examples), and for every statement with
hypotheses a witness that meets them. -/

namespace Sys2Proof.Tests

open Sys2Proof.Machine

/-! ### WellFormed: each check refuses an ill-formed term -/

theorem smoke_standard_wf : Params.standard.wf := by decide
theorem smoke_cmax_zero : ¬ ({ Params.standard with cmax := 0, cinit := 0 } : Params).wf := by decide
theorem smoke_cmax_too_large : ¬ ({ Params.standard with cmax := 65536 } : Params).wf := by decide
theorem smoke_cinit_above_cmax : ¬ ({ Params.standard with cinit := 33 } : Params).wf := by decide
theorem smoke_dmaxlen_zero : ¬ ({ Params.standard with dmaxlen := 0 } : Params).wf := by decide
theorem smoke_dmaxlen_too_large : ¬ ({ Params.standard with dmaxlen := 256 } : Params).wf := by decide
theorem smoke_fqDepth_zero : ¬ ({ Params.standard with fqDepth := 0 } : Params).wf := by decide
theorem smoke_fqDepth_too_large : ¬ ({ Params.standard with fqDepth := 65536 } : Params).wf := by decide
theorem smoke_pushn_too_few_beats : ¬ (Instr.pushn 3#16).WellFormedWith [7#8, 8#8] := by decide
theorem smoke_nop_with_a_beat : ¬ Instr.nop.WellFormedWith [7#8] := by decide
theorem smoke_pushn_three_beats : (Instr.pushn 3#16).WellFormedWith [7#8, 8#8, 9#8] := by decide

/-! ### Decode: a word of every command, op ‖ z ‖ imm by R61 and R67 -/

theorem test_decode_nop : decode (0b00000000#8 ++ 0b00000000#8 ++ 0b0000000000000000#16) = .ok .nop := by decide
theorem test_decode_push : decode (0b00010000#8 ++ 0b00000000#8 ++ 0b0000000000000100#16) = .ok (.push 4#8) := by decide
theorem test_decode_pushn : decode (0b00010001#8 ++ 0b00000000#8 ++ 0b0000000000000011#16) = .ok (.pushn 3#16) := by decide
theorem test_decode_pop : decode (0b00010010#8 ++ 0b00000000#8 ++ 0b0000000000000000#16) = .ok .pop := by decide
theorem test_decode_popn : decode (0b00010011#8 ++ 0b00000000#8 ++ 0b1111111111111111#16) = .ok (.popn 65535#16) := by decide
theorem test_decode_read : decode (0b00010100#8 ++ 0b00000000#8 ++ 0b0000000000000011#16) = .ok (.read 3#16) := by decide
theorem test_decode_peek : decode (0b00010101#8 ++ 0b00000000#8 ++ 0b0000000000000000#16) = .ok .peek := by decide
theorem test_decode_peekn : decode (0b00010110#8 ++ 0b00000000#8 ++ 0b0000000000001001#16) = .ok (.peekn 9#16) := by decide
theorem test_decode_index : decode (0b00010111#8 ++ 0b00000000#8 ++ 0b0000000000000010#16) = .ok (.index 2#16) := by decide
theorem test_decode_dmasync : decode (0b00011000#8 ++ 0b00000000#8 ++ 0b0000000000000101#16) = .ok (.dmasync 5#16) := by decide
theorem test_decode_setrp : decode (0b00011001#8 ++ 0b00000000#8 ++ 0b0000000000000110#16) = .ok (.setrp 6#16) := by decide
theorem test_decode_resize : decode (0b00011010#8 ++ 0b00000000#8 ++ 0b0000000000000011#16) = .ok (.resize 3#16) := by decide
theorem test_decode_clear : decode (0b00011011#8 ++ 0b00000000#8 ++ 0b0000000000000000#16) = .ok .clear := by decide
theorem test_decode_run : decode (0b00100000#8 ++ 0b00000000#8 ++ 0b0000000000000000#16) = .ok .run := by decide
theorem test_decode_recv : decode (0b00100001#8 ++ 0b00000000#8 ++ 0b0000000000000000#16) = .ok .recv := by decide
theorem test_decode_setsof : decode (0b00100010#8 ++ 0b00000000#8 ++ 0b0000000000000011#16) = .ok (.setsof 3#16) := by decide
theorem test_decode_clrsof : decode (0b00100011#8 ++ 0b00000000#8 ++ 0b0000000000000000#16) = .ok .clrsof := by decide
theorem test_decode_seteof : decode (0b00100100#8 ++ 0b00000000#8 ++ 0b0000000000000011#16) = .ok (.seteof 3#16) := by decide
theorem test_decode_clreof : decode (0b00100101#8 ++ 0b00000000#8 ++ 0b0000000000000000#16) = .ok .clreof := by decide
theorem test_decode_setlen : decode (0b00100110#8 ++ 0b00000000#8 ++ 0b0000000000001010#16) = .ok (.setlen 10#16) := by decide
theorem test_decode_clrlen : decode (0b00100111#8 ++ 0b00000000#8 ++ 0b0000000000000000#16) = .ok .clrlen := by decide
theorem test_decode_frames : decode (0b00101000#8 ++ 0b00000000#8 ++ 0b0000000000000000#16) = .ok .frames := by decide
theorem test_decode_bytes : decode (0b00101001#8 ++ 0b00000000#8 ++ 0b0000000000000000#16) = .ok .bytes := by decide
theorem test_decode_rdsr : decode (0b00110000#8 ++ 0b00000000#8 ++ 0b0000000000001110#16) = .ok (.rdsr 14#16) := by decide

/-- V90, V91, V92, V94, V97: illegal words. -/
theorem test_decode_illegal : decode 0x01000000#32 = .error (.unknownOpcode 1#8) ∧ decode 0xFFFFFFFF#32 = .error (.reservedNotZero 255#8)
    ∧ decode 0x10010005#32 = .error (.reservedNotZero 1#8) ∧ decode 0x12000001#32 = .error (.operandNotZero 1#16)
    ∧ decode 0x00000001#32 = .error (.operandNotZero 1#16) := by decide

/-- V93: PUSH with imm[15:8] not zero. -/
theorem test_decode_push_wide : decode 0x10000105#32 = .error (.elementTooWide 0x105#16) := by decide

/-! ### Helpers -/

/-- A state of the given capacity with CMAX = 8, DMAXLEN = 3, FQ_DEPTH = 2, EMPTY_VALUE = 0xEE, whose first cells hold bs. -/
def ring (cap rp wp sz ldc : Nat) (bs : List Byte) : State :=
  { State.reset with
    params := { cmax := 8, cinit := 5, emptyValue := 0xEE#8, prefill := false, dmaxlen := 3, fqDepth := 2 }
    mem := Memory.ofBytes 0 bs, cap := cap, rp := rp, wp := wp, sz := sz, ldc := ldc }

/-- The state after, and the last response: word and beats. -/
def after (r : Result) : State := match r with
  | .next t => t
  | .fault _ => State.reset
  | .refused _ => State.reset

def answer (r : Result) : Option (Word × Option Word × List Byte) := match (after r).trace.getLast? with
  | some (.transaction _ _ p) => some (p.word, p.ts, p.beats)
  | _ => none

/-- Cursors and counters: rp, wp, sz, ldc. -/
def regs (r : Result) : List Nat := [(after r).rp, (after r).wp, (after r).sz, (after r).ldc]

/-- The start of V10: cap 5, rp 3, sz 4, mem = [5,6,2,3,4]. -/
def v10 : State := ring 5 3 2 4 2 [5#8, 6#8, 2#8, 3#8, 4#8]

/-! ### One step a command -/

/-- V1: the write cursor wraps from 4 to 0. -/
theorem test_push_wraps : answer (exec (.push 4#8) (ring 5 0 4 4 0 [])) = some (0x00000001#32, none, [])
    ∧ regs (exec (.push 4#8) (ring 5 0 4 4 0 [])) = [0, 0, 5, 0]
    ∧ (after (exec (.push 4#8) (ring 5 0 4 4 0 []))).mem = [(4, 4#8)] := by decide

/-- V2: a Full ring rejects. -/
theorem test_push_full : answer (exec (.push 0xFF#8) (ring 5 0 0 5 0 [])) = some (0x10000000#32, none, []) := by decide

/-- V3: two go in, the third is dropped. -/
theorem test_pushn_stops_when_full :
    let r := exec (.pushn 3#16) { ring 5 2 0 3 0 [] with inBeats := [7#8, 8#8, 9#8] }
    answer r = some (0x10000002#32, none, []) ∧ regs r = [2, 2, 5, 0] ∧ (after r).mem = [(0, 7#8), (1, 8#8)] := by decide

/-- V21: capacity zero takes nothing and consumes both beats. -/
theorem test_pushn_capacity_zero :
    let r := exec (.pushn 2#16) { ring 0 0 0 0 0 [] with inBeats := [1#8, 2#8] }
    answer r = some (0x10000000#32, none, []) ∧ (after r).inBeats = [] := by decide

/-- V5: the read cursor wraps; the cell keeps its value. -/
theorem test_pop_wraps :
    let r := exec .pop (ring 5 4 4 5 0 [0#8, 0#8, 0#8, 0#8, 4#8])
    answer r = some (0x00000004#32, none, []) ∧ regs r = [0, 4, 4, 0] ∧ (after r).mem.read 4 = some 4#8 := by decide

/-- V6. -/
theorem test_pop_empty : answer (exec .pop (ring 5 2 2 0 0 [])) = some (0x20000000#32, none, []) := by decide

/-- V8. -/
theorem test_popn : answer (exec (.popn 3#16) (ring 8 6 3 5 0 [])) = some (0x00000003#32, none, [])
    ∧ regs (exec (.popn 3#16) (ring 8 6 3 5 0 [])) = [1, 3, 2, 0] := by decide

/-- V9: DRAIN. -/
theorem test_popn_drain : answer (exec (.popn 0xFFFF#16) (ring 8 6 3 5 0 [])) = some (0x00000005#32, none, [])
    ∧ regs (exec (.popn 0xFFFF#16) (ring 8 6 3 5 0 [])) = [3, 3, 0, 0] := by decide

/-- V10. -/
theorem test_read : answer (exec (.read 3#16) v10) = some (0x00000003#32, none, [3#8, 4#8, 5#8])
    ∧ regs (exec (.read 3#16) v10) = [1, 2, 1, 2] := by decide

/-- V12, V13. -/
theorem test_peek : answer (exec .peek v10) = some (0x00000003#32, none, []) ∧ regs (exec .peek v10) = [3, 2, 4, 2]
    ∧ answer (exec .peek (ring 5 2 2 0 0 [])) = some (0x20000000#32, none, []) := by decide

/-- V14. -/
theorem test_peekn : answer (exec (.peekn 9#16) v10) = some (0x00000004#32, none, [3#8, 4#8, 5#8, 6#8])
    ∧ regs (exec (.peekn 9#16) v10) = [3, 2, 4, 2] := by decide

/-- V15, V16 (the sentinel, not the stale 2 of cell 2). -/
theorem test_index : answer (exec (.index 2#16) v10) = some (0x00000005#32, none, [])
    ∧ answer (exec (.index 4#16) v10) = some (0x000000EE#32, none, []) := by decide

/-- V31: the counter wrapped. -/
theorem test_dmasync_wrapped : answer (exec (.dmasync 6#16) (ring 8 4 6 2 6 [])) = some (0x00000004#32, none, [])
    ∧ regs (exec (.dmasync 6#16) (ring 8 4 6 2 6 [])) = [4, 2, 6, 2] := by decide

/-- V32: overrun, three oldest discarded. -/
theorem test_dmasync_overrun : answer (exec (.dmasync 1#16) (ring 8 4 2 6 2 [])) = some (0x00000005#32, none, [])
    ∧ regs (exec (.dmasync 1#16) (ring 8 4 2 6 2 [])) = [7, 7, 8, 7] := by decide

/-- V40. -/
theorem test_setrp : answer (exec (.setrp 6#16) (ring 8 1 3 2 0 [])) = some (0x00000005#32, none, [])
    ∧ regs (exec (.setrp 6#16) (ring 8 1 3 2 0 [])) = [6, 3, 5, 0] := by decide

/-- V42. -/
theorem test_setrp_out_of_range : answer (exec (.setrp 8#16) (ring 8 1 3 2 0 [])) = some (0x40000000#32, none, []) := by decide

/-- V50. -/
theorem test_resize_shrinks : answer (exec (.resize 3#16) v10) = some (0x00000003#32, none, [])
    ∧ regs (exec (.resize 3#16) v10) = [0, 0, 3, 0] ∧ (after (exec (.resize 3#16) v10)).mem = [(0, 3#8), (1, 4#8), (2, 5#8)] := by
  decide

/-- V52. -/
theorem test_resize_too_large : answer (exec (.resize 9#16) v10) = some (0x40000005#32, none, [])
    ∧ (after (exec (.resize 9#16) v10)).mem = v10.mem := by decide

/-- V55. -/
theorem test_clear : regs (exec .clear { v10 with sofOpen := true }) = [0, 0, 0, 2]
    ∧ (after (exec .clear { v10 with sofOpen := true })).sofOpen = false := by decide

/-- V56. -/
theorem test_nop : answer (exec .nop v10) = some (0x00000000#32, none, []) := by decide

/-- V57: FULL and FQEMPTY; an undefined register. -/
theorem test_rdsr : answer (exec (.rdsr 0#16) (ring 5 0 0 5 0 [])) = some (0x0000000A#32, none, [])
    ∧ answer (exec (.rdsr 15#16) (ring 5 0 0 5 0 [])) = some (0x40000000#32, none, []) := by decide

/-- V58: SOFOPEN, FQEMPTY, MODE 3. -/
theorem test_rdsr_status : answer (exec (.rdsr 0#16) { ring 8 0 5 5 0 [] with sof := [0x73#8], sofOpen := true })
    = some (0x0000006C#32, none, []) := by decide

/-- V60, V63: the bytes are stored and the search restarts. -/
theorem test_setsof :
    let r := exec (.setsof 3#16) { v10 with inBeats := [0x73#8, 0x6F#8, 0x66#8], sofOpen := true }
    answer r = some (0x00000003#32, none, []) ∧ (after r).sof = [0x73#8, 0x6F#8, 0x66#8] ∧ (after r).sofOpen = false := by decide

/-- V61: longer than DMAXLEN. -/
theorem test_setsof_too_long :
    let r := exec (.setsof 4#16) { v10 with inBeats := [1#8, 2#8, 3#8, 4#8], sof := [9#8] }
    answer r = some (0x40000000#32, none, []) ∧ (after r).sof = [9#8] ∧ (after r).inBeats = [] := by decide

/-- V64, first part. -/
theorem test_clrsof :
    let r := exec .clrsof { v10 with sof := [9#8], eof := [8#8], xlen := 10#16, sofOpen := true }
    (after r).mode = .eof ∧ (after r).sofOpen = false := by decide

/-- R132: sofOpen stays. -/
theorem test_seteof :
    let r := exec (.seteof 1#16) { v10 with inBeats := [0x65#8], sofOpen := true }
    answer r = some (0x00000001#32, none, []) ∧ (after r).eof = [0x65#8] ∧ (after r).sofOpen = true := by decide

/-- V64, second part. -/
theorem test_clreof : (after (exec .clreof { v10 with eof := [8#8], xlen := 10#16 })).mode = .fixed := by decide

/-- V65. -/
theorem test_setlen : answer (exec (.setlen 0xFFFF#16) v10) = some (0x0000FFFF#32, none, [])
    ∧ (after (exec (.setlen 0xFFFF#16) v10)).xlen = 0xFFFF#16 := by decide

/-- V64, third part. -/
theorem test_clrlen : (after (exec .clrlen { v10 with xlen := 10#16 })).mode = .none := by decide

/-- V79: the delimiter straddles the physical wrap; stale cells are never matched. -/
theorem test_run_eof_straddles_wrap :
    let r := exec .run { ring 8 6 2 4 0 [0x0A#8, 0x42#8, 0x33#8, 0x34#8, 0x35#8, 0x36#8, 0x41#8, 0x0D#8] with eof := [0x0D#8, 0x0A#8] }
    answer r = some (0x00000001#32, none, []) ∧ regs r = [1, 2, 1, 0] ∧ (after r).fq.map Frame.payload = [[0x41#8]] := by decide

/-- V85: a full queue does not hold back the discard of noise. -/
theorem test_run_sof_discards_noise_with_full_queue :
    let r := exec .run { ring 8 0 7 7 0 [0x7A#8, 0x73#8, 0x6F#8, 0x41#8, 0x73#8, 0x6F#8, 0x42#8] with
      sof := [0x73#8, 0x6F#8], fq := [⟨[], 0#32⟩, ⟨[], 0#32⟩] }
    answer r = some (0x10000000#32, none, []) ∧ regs r = [3, 7, 4, 0] ∧ (after r).sofOpen = true := by decide

/-- V86, V87. -/
theorem test_recv : answer (exec .recv v10) = some (0x30000000#32, some 0#32, [])
    ∧ answer (exec .recv { v10 with fq := [⟨[0x6D#8, 0x73#8, 0x67#8], 100#32⟩] })
      = some (0x00000003#32, some 0x64#32, [0x6D#8, 0x73#8, 0x67#8]) := by decide

/-- V88. -/
theorem test_frames : answer (exec .frames { v10 with fq := [⟨[], 0#32⟩] }) = some (0x00000001#32, none, []) := by decide

/-- R152. -/
theorem test_bytes : answer (exec .bytes v10) = some (0x00000004#32, none, []) := by decide

/-- V96: BADOP wins over IGNORED; the state's registers stay. -/
theorem test_step_badop : answer (step { ring 8 0 2 2 0 [] with pending := [.command 0x18FF0009#32 [1#8]] })
    = some (0x50000000#32, none, []) := by decide

/-- P2, step 7: the agent's write goes to its own index and moves no register. -/
theorem test_step_dma_write :
    let r := step { ring 8 4 2 6 2 [] with dmaLen := 8, dmaRem := 6, pending := [.dmaWrite 0x4B#8] }
    (after r).mem = [(2, 0x4B#8)] ∧ (after r).dmaRem = 5 ∧ regs r = [4, 2, 6, 2] := by decide

/-- R180, R29. -/
theorem test_step_reset : regs (step { v10 with pending := [.reset] }) = [0, 0, 0, 0]
    ∧ (after (step { v10 with pending := [.reset] })).cap = 5 ∧ (after (step { v10 with pending := [.reset] })).mem = [] := by decide

/-- RUN as the first command after reset. -/
theorem test_first_command_runs : answer (step (State.reset.withFetchWord 32 0x20000000)) = some (0x00000000#32, none, []) := by
  decide

/-! ### Witnesses: states and operands that meet the hypotheses of the statements -/

/-- Coherent with 0 outstanding (the state before step 3 of P2 and after its DMASYNC), with room for two more. -/
def streaming : State := { ring 8 4 6 2 6 [0x41#8] with dmaLen := 8, dmaRem := 2 }

/-- The counter stands at 0 after 2 more bytes: coherent with 2 outstanding. -/
def beforeReload : State := { streaming with dmaRem := 0 }

theorem witness_EncodeOfDecode : decode 0x1A000003#32 = .ok (.resize 3#16) := by decide
theorem witness_IllegalWordsAnswerBadop : ({ v10 with pending := [.command 0x10000105#32 [1#8]] } : State).pending
    = .command 0x10000105#32 [1#8] :: [] ∧ decode 0x10000105#32 = .error (.elementTooWide 0x105#16) := by and_intros <;> decide
theorem witness_StepRunsTheDecodedCommand : ({ v10 with pending := [.command 0x12000000#32 []] } : State).pending
    = .command 0x12000000#32 [] :: [] ∧ decode 0x12000000#32 = .ok .pop := by and_intros <;> decide
theorem witness_IdleStepChangesNothing : State.reset.pending = [] := by decide
theorem witness_BeatCountDecidesWhetherACommandRuns :
    ({ v10 with inBeats := [1#8] } : State).inBeats.length = (Instr.pushn 1#16).beatCount ∧ v10.inBeats.length ≠ (Instr.pushn 1#16).beatCount
      ∧ Instr.pop.opcode ∉ [0x11#8, 0x22#8, 0x24#8] := by and_intros <;> decide
theorem witness_ResponseItems : Inv v10 ∧ v10.inBeats.length = (Instr.read 9#16).beatCount
    ∧ (Instr.read 9#16).opcode ∈ [0x14#8, 0x16#8] ∧ Instr.recv.opcode = 0x21#8 ∧ Instr.pop.opcode ∉ [0x14#8, 0x16#8, 0x21#8] := by and_intros <;> decide

/-- A Full ring, an Empty one, one of capacity 0. -/
def full5 : State := ring 5 0 0 5 0 []
def empty5 : State := ring 5 2 2 0 0 []
def nothing : State := ring 0 0 0 0 0 []

/-- PUSH: Full (also at capacity 0) and not Full. -/
theorem witness_PushInsertsOrAnswersFull : (Inv full5 ∧ full5.inBeats = [] ∧ full5.sz = full5.cap)
    ∧ (Inv nothing ∧ nothing.inBeats = [] ∧ nothing.sz = nothing.cap) ∧ (Inv v10 ∧ v10.inBeats = [] ∧ v10.sz ≠ v10.cap) := by
  and_intros <;> decide
/-- POP: Empty and not Empty. -/
theorem witness_PopRemovesTheOldest : (Inv empty5 ∧ empty5.inBeats = [] ∧ empty5.sz = 0) ∧ (Inv v10 ∧ v10.inBeats = [] ∧ v10.sz ≠ 0) := by
  and_intros <;> decide
/-- POPN: n below and at the size. -/
theorem witness_PopnDiscardsUpToN : Inv v10 ∧ v10.inBeats = [] ∧ ¬ v10.sz ≤ (3#16 : Half).toNat ∧ v10.sz ≤ (4#16 : Half).toNat := by
  and_intros <;> decide
theorem witness_ReadCopiesOutAndRemoves : Inv v10 ∧ v10.inBeats = [] ∧ Inv empty5 ∧ empty5.inBeats = [] := by and_intros <;> decide
theorem witness_PeekShowsTheOldest : (Inv empty5 ∧ empty5.inBeats = [] ∧ empty5.sz = 0) ∧ (Inv v10 ∧ v10.inBeats = [] ∧ v10.sz ≠ 0) := by
  and_intros <;> decide
theorem witness_PushnInsertsWhatFits : Inv { v10 with inBeats := [1#8, 2#8] }
    ∧ ({ v10 with inBeats := [1#8, 2#8] } : State).inBeats.length = (2#16 : Half).toNat := by and_intros <;> decide
theorem witness_PeeknCopiesWithoutRemoving : Inv v10 ∧ v10.inBeats = [] ∧ none ∉ v10.content.take 4 := by and_intros <;> decide
theorem witness_IndexShowsALogicalElement : Inv v10 ∧ v10.inBeats = [] ∧ (3#16 : Half).toNat < v10.sz ∧ v10.sz ≤ (4#16 : Half).toNat := by and_intros <;> decide
theorem witness_FifoLaw :
    let cs : List (Instr × List Byte) := [(.pop, []), (.pushn 2#16, [1#8, 2#8]), (.read 0xFFFF#16, [])]
    let s : State := { v10 with pending := commands cs ++ [.reset] }
    Inv s ∧ (∀ c ∈ cs, Access c.1 = true ∧ c.1.WellFormedWith c.2) ∧ s.pending = commands cs ++ [.reset]
      ∧ ∀ c ∈ cs, c.1.opcode ≠ 0x13#8 := by and_intros <;> decide
/-- DMASYNC: rem above cap, at cap and at 0; with overrun (cap < n) and without. -/
theorem witness_DmasyncReconciles : Inv (ring 8 4 2 6 2 []) ∧ (ring 8 4 2 6 2 []).inBeats = [] ∧ 8 < (9#16 : Half).toNat
    ∧ (8#16 : Half).toNat ≤ 8 ∧ (0#16 : Half).toNat ≤ 8 ∧ (8 : Int) < 6 + dmaDiff 8 2 1 ∧ 6 + dmaDiff 8 2 6 ≤ (8 : Int) := by and_intros <;> decide
/-- ReconciliationBounds (cap, sz, ldc, rem): ldc = w, w < ldc, capacity 0; V30 and V37 say what they come to. -/
theorem witness_ReconciliationBounds : (4 ≤ 8 ∧ 5 ≤ 8 ∧ 3 ≤ 8 ∧ (5 : Int) ≤ 8 - 3) ∧ (4 ≤ 8 ∧ 8 ≤ 8 ∧ 8 ≤ 8 ∧ (8 : Int) - 8 < 8)
    ∧ dmaDiff 8 0 2 = 6 ∧ dmaDiff 8 8 8 = 0 ∧ dmaDiff 0 0 0 = 0 := by and_intros <;> decide
theorem witness_OverrunDiscardsTheOldest : Inv (ring 8 4 2 6 2 []) ∧ (ring 8 4 2 6 2 []).inBeats = [] ∧ (1#16 : Half).toNat ≤ 8
    ∧ (ring 8 4 2 6 2 []).cap < (ring 8 4 2 6 2 []).sz + (dmaDiff 8 2 1).toNat := by and_intros <;> decide
/-- SETRP: pos at cap − 1 = wp, and at cap. -/
theorem witness_SetrpRelocatesTheReadCursor : Inv (ring 8 2 7 5 0 []) ∧ (ring 8 2 7 5 0 []).inBeats = [] ∧ (7#16 : Half).toNat < 8
    ∧ (7#16 : Half).toNat = (ring 8 2 7 5 0 []).wp ∧ 8 ≤ (8#16 : Half).toNat := by and_intros <;> decide
/-- Coherence: a ring ready for a start; 0 and 2 bytes outstanding; a value the counter had 2 bytes ago. -/
theorem witness_CoherenceIsKept : (Inv (ring 8 0 0 0 8 []) ∧ 0 < (ring 8 0 0 0 8 []).cap ∧ wrap 8 (8 : Nat) = 0)
    ∧ (Inv streaming ∧ Coherent streaming 0 ∧ 1 ≤ streaming.dmaRem ∧ streaming.inBeats = [])
    ∧ (Inv beforeReload ∧ Coherent beforeReload 2 ∧ beforeReload.dmaRem = 0 ∧ (2#16 : Half).toNat ≤ beforeReload.dmaLen
      ∧ wrap 8 ((8 : Int) - (2#16 : Half).toNat) = wrap 8 (6 + (2 - 2) : Nat) ∧ (2#16 : Half).toNat ≠ beforeReload.cap)
    ∧ streaming.inBeats.length = Instr.run.beatCount ∧ Instr.run.opcode ∉ [0x10#8, 0x11#8, 0x18#8, 0x1A#8, 0x1B#8] := by and_intros <;> decide
/-- CoherentDmasyncCountsTheBytes: u = 2 < cap within the room; u = cap from ldc = 0 read as 0, and from ldc = 6. -/
theorem witness_CoherentDmasyncCountsTheBytes : Inv beforeReload ∧ Coherent beforeReload 2 ∧ beforeReload.inBeats = []
    ∧ 2 ≤ beforeReload.cap - beforeReload.sz
    ∧ (Inv { ring 8 0 0 0 0 [] with dmaLen := 8, dmaRem := 0 } ∧ Coherent { ring 8 0 0 0 0 [] with dmaLen := 8, dmaRem := 0 } 8)
    ∧ Coherent streaming 8 := by and_intros <;> decide
/-- Three bytes, the counter passing 0. -/
theorem witness_ReceivedBytesBecomeTheContent :
    let bs : List Byte := [1#8, 2#8, 3#8]
    let s : State := { streaming with pending := dmaBurst 8 2 bs ++ [.reset] }
    Inv s ∧ Coherent s 0 ∧ s.inBeats = [] ∧ bs.length < s.cap ∧ bs.length ≤ s.cap - s.sz
      ∧ s.pending = dmaBurst s.dmaLen s.dmaRem bs ++ [.reset] := by and_intros <;> decide
theorem witness_DmaWriteStep : Inv { streaming with pending := [.dmaWrite 1#8] } ∧ 1 ≤ streaming.dmaRem
    ∧ ({ streaming with pending := [.dmaWrite 1#8] } : State).pending = .dmaWrite 1#8 :: [] := by and_intros <;> decide
/-- A reload that is enabled, a start at CMAX, a read. -/
theorem witness_DmaReloadStartAndRead :
    (({ beforeReload with pending := [.dmaReload] } : State).pending = .dmaReload :: [] ∧ beforeReload.dmaRem = 0 ∧ 1 ≤ beforeReload.dmaLen)
    ∧ (({ v10 with pending := [.dmaStart 8] } : State).pending = .dmaStart 8 :: [] ∧ 8 ≤ v10.params.cmax)
    ∧ ({ v10 with pending := [.dmaRead] } : State).pending = .dmaRead :: [] := by and_intros <;> decide
/-- A write at counter 0, a reload above 0 and one with no transfer, a start just above CMAX. -/
theorem witness_DisabledAgentStepsAreRefused :
    (({ beforeReload with pending := [.dmaWrite 1#8] } : State).pending = .dmaWrite 1#8 :: [] ∧ beforeReload.dmaRem = 0)
    ∧ (({ streaming with pending := [.dmaReload] } : State).pending = .dmaReload :: [] ∧ streaming.dmaRem ≠ 0)
    ∧ (({ v10 with pending := [.dmaReload] } : State).pending = .dmaReload :: [] ∧ v10.dmaLen = 0)
    ∧ (({ v10 with pending := [.dmaStart 9] } : State).pending = .dmaStart 9 :: [] ∧ v10.params.cmax < 9) := by and_intros <;> decide
theorem witness_HardwareResetValues : ({ v10 with pending := [.reset] } : State).pending = .reset :: []
    ∧ v10.params.prefill = false ∧ ({ v10 with params := { v10.params with prefill := true } } : State).params.prefill = true := by and_intros <;> decide
/-- RESIZE: above CMAX, at CMAX, and 0. -/
theorem witness_ResizeKeepsTheOldest : Inv v10 ∧ v10.inBeats = [] ∧ v10.params.cmax < (9#16 : Half).toNat
    ∧ (8#16 : Half).toNat ≤ v10.params.cmax ∧ (0#16 : Half).toNat ≤ v10.params.cmax := by and_intros <;> decide
theorem witness_RdsrReadsTheStatusRegisters : Inv v10 ∧ v10.inBeats = [] ∧ (14#16 : Half).toNat ≤ 14 ∧ 14 < (15#16 : Half).toNat := by and_intros <;> decide
theorem witness_ClearEmptiesTheRing : v10.inBeats = [] := rfl
theorem witness_NopChangesNothing : v10.inBeats = [] := rfl
theorem witness_ClrsofForgetsTheStartSequence : ({ v10 with sof := [4#8] } : State).inBeats = [] := rfl
theorem witness_ClreofForgetsTheEndSequence : ({ v10 with eof := [4#8] } : State).inBeats = [] := rfl
/-- SETLEN, CLRLEN: also with no delimiter configured. -/
theorem witness_SetlenAndClrlenWriteTheExpectedLength : v10.inBeats = [] ∧ v10.sof = [] ∧ v10.eof = [] := by and_intros <;> decide
theorem witness_FramesAndBytesCount : v10.inBeats = [] := rfl
/-- RECV: no frame, and one. -/
theorem witness_RecvTakesTheOldestFrame : v10.inBeats = [] ∧ v10.fq = []
    ∧ ({ v10 with fq := [⟨[1#8], 3#32⟩] } : State).fq = ⟨[1#8], 3#32⟩ :: [] := by and_intros <;> decide
/-- On a small store, and on one whose AW is 16, with xlen at its greatest. -/
theorem witness_RegistersFitTheirWidth : Inv v10 ∧ v10.params.cmax < 2 ^ 4
    ∧ (let s := { v10 with params := { v10.params with cmax := 2 ^ 15 }, xlen := 0xFFFF#16 }
       Inv s ∧ 2 ^ 15 ≤ s.params.cmax) := by and_intros <;> decide
theorem witness_RunNeedsAtMostSizePlusOnePasses : Inv { v10 with eof := [4#8] } ∧ v10.sz + 1 ≤ 5 := by and_intros <;> decide
/-- SETSOF, SETEOF: at DMAXLEN, above it, and with no beat. -/
theorem witness_SetsofWritesTheStartSequence : ({ v10 with inBeats := [1#8, 2#8, 3#8] } : State).inBeats.length = (3#16 : Half).toNat
    ∧ (3#16 : Half).toNat ≤ v10.params.dmaxlen ∧ ({ v10 with inBeats := [1#8, 2#8, 3#8, 4#8] } : State).inBeats.length = (4#16 : Half).toNat
    ∧ v10.params.dmaxlen < (4#16 : Half).toNat ∧ v10.inBeats.length = (0#16 : Half).toNat := by and_intros <;> decide
/-- The hypotheses of SETEOF are those of SETSOF. -/
theorem witness_SeteofWritesTheEndSequence : ({ v10 with inBeats := [1#8, 2#8, 3#8] } : State).inBeats.length = (3#16 : Half).toNat
    ∧ (3#16 : Half).toNat ≤ v10.params.dmaxlen ∧ ({ v10 with inBeats := [1#8, 2#8, 3#8, 4#8] } : State).inBeats.length = (4#16 : Half).toNat
    ∧ v10.params.dmaxlen < (4#16 : Half).toNat ∧ v10.inBeats.length = (0#16 : Half).toNat := by and_intros <;> decide
theorem witness_RunWritesOnlyItsOwn : Inv { v10 with sof := [3#8], sofOpen := true } ∧ v10.inBeats = [] ∧ v10.mode ≠ .sof := by and_intros <;> decide
theorem witness_RunInModeNoneExtractsNothing : v10.inBeats = [] ∧ v10.mode = .none := by and_intros <;> decide
theorem witness_RunInFixedModeCutsByLength : Inv { v10 with xlen := 2#16 } ∧ ({ v10 with xlen := 2#16 } : State).mode = .fixed
    ∧ Inv { v10 with xlen := 6#16 } ∧ v10.cap < (6#16 : Half).toNat := by and_intros <;> decide
theorem witness_RunInEofModeCutsAtTheDelimiter : Inv { v10 with eof := [4#8] } ∧ ({ v10 with eof := [4#8] } : State).mode = .eof
    ∧ ({ v10 with eof := [4#8] } : State).content = [3#8, 4#8, 5#8, 6#8].map some := by and_intros <;> decide
/-- SOF: closed with no delimiter in the ring, closed with one, open. -/
theorem witness_RunInSofModeCutsAtTheDelimiter : Inv { v10 with sof := [4#8] } ∧ ({ v10 with sof := [4#8] } : State).mode = .sof
    ∧ ({ v10 with sof := [4#8] } : State).content = [3#8, 4#8, 5#8, 6#8].map some ∧ v10.sofOpen = false
    ∧ find [7#8] [3#8, 4#8, 5#8, 6#8] = none ∧ find [4#8] [3#8, 4#8, 5#8, 6#8] ≠ none
    ∧ Inv { v10 with sof := [7#8] } ∧ Inv { v10 with sof := [4#8], sofOpen := true } := by and_intros <;> decide
theorem witness_StepKeepsTheInvariants : let s : State := { v10 with pending := [.command 0x12000000#32 []] }
    Inv s ∧ step s = .next (after (step s)) := ⟨by decide, rfl⟩
theorem witness_OnlyTheseStepsWriteCells : let s : State := { v10 with pending := [.command 0x10000007#32 []] }
    step s = .next (after (step s)) ∧ (after (step s)).mem.read 2 ≠ s.mem.read 2 := ⟨rfl, by decide⟩
/-- Steps that change cap and ldc (RESIZE), and wp (PUSH). -/
theorem witness_OnlyTheseStepsWriteTheRingRegisters :
    let s : State := { v10 with pending := [.command 0x1A000003#32 []] }
    step s = .next (after (step s)) ∧ (after (step s)).cap ≠ s.cap ∧ (after (step s)).ldc ≠ s.ldc
      ∧ (after (step s)).wp ≠ s.wp := ⟨rfl, by decide, by decide, by decide⟩
/-- Two different states; the first clause asks only for the beat count. -/
theorem witness_StatusDependsOnlyOnCounts : let s' : State := { v10 with rp := 0, wp := 4, mem := [] }
    Instr.pop ≠ .run ∧ v10.inBeats.length = Instr.pop.beatCount ∧ s'.inBeats.length = Instr.pop.beatCount ∧ v10.cap = s'.cap
      ∧ v10.sz = s'.sz ∧ v10.fq.length = s'.fq.length ∧ v10.params.cmax = s'.params.cmax
      ∧ v10.params.dmaxlen = s'.params.dmaxlen := by and_intros <;> decide
theorem witness_CellsBeyondTheCapacityDoNotMatter : Inv v10 ∧ v10.inBeats.length = Instr.run.beatCount
    ∧ ∀ a < v10.cap, (v10.mem ++ [(7, 9#8)]).read a = v10.mem.read a := by and_intros <;> decide
theorem witness_InspectionChangesNothing : (Instr.index 3#16).opcode ∈ [0x00#8, 0x15#8, 0x16#8, 0x17#8, 0x28#8, 0x29#8, 0x30#8]
    ∧ v10.inBeats.length = (Instr.index 3#16).beatCount := by and_intros <;> decide
theorem witness_CommandsReachTheResetValues :
    let s : State := { v10 with
      fq := [⟨[1#8], 0#32⟩]
      pending := commands [(.resize 5#16, []), (.clear, []), (.clrsof, []), (.clreof, []), (.clrlen, []), (.recv, [])] }
    Inv s ∧ s.pending = commands ([(.resize (BitVec.ofNat 16 s.params.cinit), []), (.clear, []), (.clrsof, []), (.clreof, []), (.clrlen, [])]
      ++ List.replicate s.fq.length (.recv, [])) ++ [] := by and_intros <;> decide

end Sys2Proof.Tests
end

section
/-! PROOFS of the family 00_scope.md: the idle step (R9, R180), the width AW of the ring registers (R4, R5). -/

namespace Sys2Proof

/-! ### The width AW (R4) -/

/-- AW is the least width with 2^AW above CMAX: the widths from AW on are exactly those. -/
theorem Params.aw_le_iff {p : Params} (h : p.wf) {n : Nat} : p.aw ≤ n ↔ p.cmax < 2 ^ n := by
  obtain ⟨hpos, -⟩ := h
  exact Nat.succ_le_iff.trans (Nat.log2_lt (by omega))

theorem Params.cmax_lt_two_pow_aw {p : Params} (h : p.wf) : p.cmax < 2 ^ p.aw := (aw_le_iff h).mp le_rfl

theorem Params.one_le_aw (p : Params) : 1 ≤ p.aw := Nat.le_add_left 1 _

theorem Params.aw_le_sixteen {p : Params} (h : p.wf) : p.aw ≤ 16 := by
  have ⟨_, hmax, _⟩ := h
  exact (aw_le_iff h).mpr (by omega)

/-- From CMAX = 32768 on, AW is 16: the width R21 gives `xlen` (log 20). -/
theorem Params.aw_eq_sixteen {p : Params} (h : p.wf) (hc : 2 ^ 15 ≤ p.cmax) : p.aw = 16 := by
  have hlarge : ¬ p.aw ≤ 15 := mt (aw_le_iff h).mp (by omega)
  have := aw_le_sixteen h
  omega

namespace Machine

/-! ### The registers against CMAX (R5, R16) -/

theorem RingInv.cursors_le_cap {s : State} (h : RingInv s) : s.rp ≤ s.cap ∧ s.wp ≤ s.cap := by
  obtain ⟨-, -, hpos, hzero, -, -⟩ := h
  obtain hc | hc := Nat.eq_zero_or_pos s.cap
  · have := hzero hc
    omega
  · have := hpos hc
    omega

/-- Settles O50: the invariants bound every ring register by CMAX, and AW is the least width that holds CMAX. -/
theorem registersFitTheirWidth : Obligations.RegistersFitTheirWidth := by
  unfold Obligations.RegistersFitTheirWidth
  rintro s ⟨hwf, hring, -⟩
  obtain ⟨hrp, hwp⟩ := RingInv.cursors_le_cap hring
  obtain ⟨hsz, -, -, -, hldc, hcap⟩ := hring
  have hcmax := Params.cmax_lt_two_pow_aw hwf
  have fits : ∀ {r : Nat}, r ≤ s.cap → r < 2 ^ s.params.aw := fun hr => (hr.trans hcap).trans_lt hcmax
  have hxlen (hc : 2 ^ 15 ≤ s.params.cmax) : s.xlen.toNat < 2 ^ s.params.aw := by
    rw [Params.aw_eq_sixteen hwf hc]
    exact s.xlen.isLt
  exact ⟨fits le_rfl, fits hrp, fits hwp, fits hsz, fits hldc, s.params.one_le_aw, Params.aw_le_sixteen hwf, hcmax, hxlen,
    fun _ => (Params.aw_le_iff hwf).mpr⟩

/-! ### The idle step (R9, R180) -/

/-- With nothing pending RBFT waits. -/
theorem step_of_pending_nil {s : State} (h : s.pending = []) : step s = .next s := by
  unfold step
  rw [h]

/-- Settles O7: it is the step's case of an empty pending list. -/
theorem idleStepChangesNothing : Obligations.IdleStepChangesNothing := by
  unfold Obligations.IdleStepChangesNothing
  exact fun _ => step_of_pending_nil

end Machine
end Sys2Proof
end

section
/-! PROOFS of the family 10_state.md: what a command and a step may do to the state, who writes storage and the ring
registers (R10 to R15, R27), the invariants (R16), the framing mode (R22), hardware reset (R29). -/

namespace Sys2Proof.Machine

/-! ### What a command may do -/

/-- The ways a command may change the state before its response: `Performs s i u` says that `i` may leave `u` where it found
`s`. The command is named where the way belongs to it alone; a way open to several commands is stated for all of them. -/
inductive Performs (s : State) : Instr → State → Prop
  | answer (i : Instr) : Performs s i s
  | look (i : Instr) : Performs s i s.drawn
  | push (v : Byte) (h : s.sz ≠ s.cap) : Performs s (.push v) ((s.writeCell (s.writeAddr 0) v).advanceWrite 1)
  | pushn (len : Half) {k : Nat} (h : k ≤ s.room) :
      Performs s (.pushn len) ((s.memWrite s.wp (s.inBeats.take k)).advanceWrite k)
  | discard (i : Instr) {k : Nat} (h : k ≤ s.sz) : Performs s i (s.dropFront k)
  | take (i : Instr) {k : Nat} (h : k ≤ s.sz) : Performs s i (s.drawn.dropFront k)
  | dmasync {rem : Half} (h : rem.toNat ≤ s.cap) :
      Performs s (.dmasync rem) (s.reconcile rem.toNat (dmaDiff s.cap s.ldc rem.toNat))
  | setrp {pos : Half} (h : pos.toNat < s.cap) :
      Performs s (.setrp pos) { s with rp := pos.toNat, sz := wrap s.cap ((s.wp : Int) - pos.toNat) }
  | resize {n : Half} (h : n.toNat ≤ s.params.cmax) : Performs s (.resize n) (s.resized n.toNat)
  | clear : Performs s .clear { s with sz := 0, rp := 0, wp := 0, sofOpen := false }
  | run : Performs s .run (scan s.mode (s.sz + 1) s 0).1
  | recv {f : Frame} {rest : List Frame} (h : s.fq = f :: rest) : Performs s .recv { s with fq := rest }
  | setSof (i : Instr) {bs : List Byte} (h : bs.length ≤ s.params.dmaxlen) : Performs s i (s.setSof bs)
  | setEof (i : Instr) {bs : List Byte} (h : bs.length ≤ s.params.dmaxlen) : Performs s i (s.setEof bs)
  | setXlen (i : Instr) (n : Half) : Performs s i (s.setXlen n)

/-- If `body` answers next, the command has done one of its ways and then responded. -/
def Responds (s : State) (i : Instr) (body : Result) : Prop :=
  ∀ t, body = .next t → ∃ u r, Performs s i u ∧ t = u.reply r

variable {s t u : State} {i : Instr}

theorem Performs.responds {r : Response} (h : Performs s i u) : Responds s i (.next (u.reply r)) := by
  rintro t ⟨⟩
  exact ⟨u, r, h, rfl⟩

theorem responds_ite {p : Prop} [Decidable p] {a b : Result} (ha : p → Responds s i a) (hb : ¬ p → Responds s i b) :
    Responds s i (if p then a else b) := by
  split
  · exact ha ‹_›
  · exact hb ‹_›

theorem responds_transact {n : Nat} {body : Result} (h : s.inBeats.length = n → Responds s i body) :
    Responds s i (s.transact n body) :=
  responds_ite h fun _ _ ht => nomatch ht

/-- Every command does one of its ways and responds. -/
theorem exec_responds (i : Instr) (s : State) : Responds s i (exec i s) := by
  cases i with
  | nop | frames | bytes => exact responds_transact fun _ => (Performs.answer _).responds
  | push v =>
    exact responds_transact fun _ => responds_ite (fun _ => (Performs.answer _).responds)
      fun h => (Performs.push v (by simpa [State.isFull] using h)).responds
  | pushn len => exact responds_transact fun _ => (Performs.pushn len (Nat.min_le_right _ _)).responds
  | pop =>
    exact responds_transact fun _ => responds_ite (fun _ => (Performs.answer _).responds)
      fun h => (Performs.take _ (Nat.one_le_iff_ne_zero.mpr (by simpa [State.isEmpty] using h))).responds
  | popn n => exact responds_transact fun _ => (Performs.discard _ (Nat.min_le_right _ _)).responds
  | read len => exact responds_transact fun _ => (Performs.take _ (Nat.min_le_right _ _)).responds
  | peek =>
    exact responds_transact fun _ => responds_ite (fun _ => (Performs.answer _).responds)
      fun _ => (Performs.look _).responds
  | peekn len => exact responds_transact fun _ => (Performs.look _).responds
  | index k =>
    exact responds_transact fun _ => responds_ite (fun _ => (Performs.look _).responds)
      fun _ => (Performs.answer _).responds
  | dmasync rem =>
    exact responds_transact fun _ => responds_ite (fun _ => (Performs.answer _).responds)
      fun h => (Performs.dmasync (Nat.not_lt.mp h)).responds
  | setrp pos =>
    exact responds_transact fun _ => responds_ite (fun _ => (Performs.answer _).responds)
      fun h => (Performs.setrp (Nat.not_le.mp h)).responds
  | resize n =>
    exact responds_transact fun _ => responds_ite (fun _ => (Performs.answer _).responds)
      fun h => (Performs.resize (Nat.not_lt.mp h)).responds
  | clear => exact responds_transact fun _ => Performs.clear.responds
  | run => exact responds_transact fun _ => Performs.run.responds
  | recv =>
    refine responds_transact fun _ => ?_
    split
    · exact (Performs.answer _).responds
    · next h => exact (Performs.recv h).responds
  | setsof len =>
    exact responds_transact fun hb => responds_ite (fun _ => (Performs.answer _).responds)
      fun h => (Performs.setSof _ (by omega)).responds
  | clrsof => exact responds_transact fun _ => (Performs.setSof _ (Nat.zero_le _)).responds
  | seteof len =>
    exact responds_transact fun hb => responds_ite (fun _ => (Performs.answer _).responds)
      fun h => (Performs.setEof _ (by omega)).responds
  | clreof => exact responds_transact fun _ => (Performs.setEof _ (Nat.zero_le _)).responds
  | setlen len => exact responds_transact fun _ => (Performs.setXlen _ _).responds
  | clrlen => exact responds_transact fun _ => (Performs.setXlen _ _).responds
  | rdsr r =>
    refine responds_transact fun _ => ?_
    split
    · exact (Performs.answer _).responds
    · exact (Performs.answer _).responds

/-! ### What a step may do -/

/-- The ways a step may go, by the event it takes (R9). -/
inductive Steps (s : State) : State → Prop
  | idle (hp : s.pending = []) : Steps s s
  | command {w : Word} {beats : List Byte} {rest : List Event} {i : Instr} {u : State} {r : Response}
      (hp : s.pending = .command w beats :: rest) (hd : decode w = .ok i) (hu : Performs (s.present w beats rest) i u) :
      Steps s (u.reply r)
  | illegal {w : Word} {beats : List Byte} {rest : List Event} {r : Response}
      (hp : s.pending = .command w beats :: rest) : Steps s ((s.present w beats rest).reply r)
  | dmaWrite {b : Byte} {rest : List Event} (hp : s.pending = .dmaWrite b :: rest) (hcell : s.dmaIndex < s.params.cmax) :
      Steps s { (s.takeEvent rest).writeCell s.dmaIndex b with dmaRem := s.dmaRem - 1 }
  | dmaReload {rest : List Event} (hp : s.pending = .dmaReload :: rest) :
      Steps s { s.takeEvent rest with dmaRem := s.dmaLen }
  | dmaStart {n : Nat} {rest : List Event} (hp : s.pending = .dmaStart n :: rest) (hn : n ≤ s.params.cmax) :
      Steps s { s.takeEvent rest with dmaLen := n, dmaRem := n }
  | dmaRead {rest : List Event} {os : List Observation} (hp : s.pending = .dmaRead :: rest) :
      Steps s { s.takeEvent rest with trace := os }
  | reset {rest : List Event} (hp : s.pending = .reset :: rest) : Steps s (s.takeEvent rest).hardwareReset

theorem step_steps (h : step s = .next t) : Steps s t := by
  unfold step at h
  split at h
  · next hp => cases h; exact .idle hp
  · next hp =>
    split at h
    · next hd => obtain ⟨u, r, hu, rfl⟩ := exec_responds _ _ t h; exact .command hp hd hu
    · cases h; exact .illegal hp
  · next hp => obtain ⟨-, hcell, rfl⟩ := dmaWrite_next h; exact .dmaWrite hp hcell
  · next hp => obtain ⟨-, -, rfl⟩ := dmaReload_next h; exact .dmaReload hp
  · next hp => obtain ⟨hn, rfl⟩ := dmaStart_next h; exact .dmaStart hp hn
  · next hp => cases h; exact .dmaRead hp
  · next hp => cases h; exact .reset hp

/-! ### Who writes storage, the ring registers and the parameters (R10 to R15, R27) -/

section MemWrite
variable (s : State) (addr : Nat) (vs : List Byte)

@[simp] theorem State.memWrite_params : (s.memWrite addr vs).params = s.params := by rw [State.memWrite_eq]
@[simp] theorem State.memWrite_cap : (s.memWrite addr vs).cap = s.cap := by rw [State.memWrite_eq]
@[simp] theorem State.memWrite_sz : (s.memWrite addr vs).sz = s.sz := by rw [State.memWrite_eq]
@[simp] theorem State.memWrite_ldc : (s.memWrite addr vs).ldc = s.ldc := by rw [State.memWrite_eq]

end MemWrite

theorem Performs.params_eq (h : Performs s i u) : u.params = s.params := by
  cases h with
  | pushn => simp
  | run =>
    obtain ⟨-, -, -, -, ⟨hparams, -⟩, -⟩ := scan_frame s.mode (s.sz + 1) s 0
    exact hparams
  | _ => rfl

theorem Performs.mem_eq_or (h : Performs s i u) : u.mem = s.mem ∨ i.opcode ∈ [0x10#8, 0x11#8, 0x1A#8] := by
  cases h with
  | push | pushn | resize => exact .inr (by simp [Instr.opcode])
  | run =>
    obtain ⟨hmem, -⟩ := scan_frame s.mode (s.sz + 1) s 0
    exact .inl hmem
  | _ => exact .inl rfl

theorem Performs.cap_eq_or (h : Performs s i u) : u.cap = s.cap ∨ ∃ n, i = .resize n ∧ n.toNat ≤ s.params.cmax := by
  cases h with
  | pushn => exact .inl (by simp)
  | resize hn => exact .inr ⟨_, rfl, hn⟩
  | run =>
    obtain ⟨-, -, ⟨hcap, -⟩, -⟩ := scan_frame s.mode (s.sz + 1) s 0
    exact .inl hcap
  | _ => exact .inl rfl

theorem Performs.wp_eq_or (h : Performs s i u) :
    u.wp = s.wp ∨ i.opcode ∈ [0x10#8, 0x11#8, 0x18#8, 0x1A#8, 0x1B#8] := by
  cases h with
  | push | pushn | dmasync | resize | clear => exact .inr (by simp [Instr.opcode])
  | run =>
    obtain ⟨-, hwp, -⟩ := scan_frame s.mode (s.sz + 1) s 0
    exact .inl hwp
  | _ => exact .inl rfl

theorem Performs.ldc_eq_or (h : Performs s i u) : u.ldc = s.ldc ∨ i.opcode ∈ [0x18#8, 0x1A#8] := by
  cases h with
  | pushn => exact .inl (by simp)
  | dmasync | resize => exact .inr (by simp [Instr.opcode])
  | run =>
    obtain ⟨-, -, ⟨-, hldc⟩, -⟩ := scan_frame s.mode (s.sz + 1) s 0
    exact .inl hldc
  | _ => exact .inl rfl

/-- Settles O51: of the ways of a step only these touch storage. -/
theorem onlyTheseStepsWriteCells : Obligations.OnlyTheseStepsWriteCells := by
  unfold Obligations.OnlyTheseStepsWriteCells
  intro s t a h hne
  cases step_steps h with
  | command hp hd hu =>
    obtain hmem | hi := hu.mem_eq_or
    · exact absurd (congrArg (·.read a) hmem) hne
    · exact ⟨_, _, hp, .inr (.inr ⟨_, _, _, rfl, hd, hi⟩)⟩
  | dmaWrite hp =>
    have ha : a = s.dmaIndex := by
      by_contra ha
      exact hne (Memory.read_write_other _ ha _)
    exact ⟨_, _, hp, .inr (.inl ⟨_, rfl, ha⟩)⟩
  | reset hp => exact ⟨_, _, hp, .inl rfl⟩
  | idle | illegal | dmaReload | dmaStart | dmaRead => exact absurd rfl hne

/-- Settles O52: reset aside, a step that writes one of these registers is a command that does. -/
theorem onlyTheseStepsWriteTheRingRegisters : Obligations.OnlyTheseStepsWriteTheRingRegisters := by
  unfold Obligations.OnlyTheseStepsWriteTheRingRegisters
  intro s t h
  cases step_steps h with
  | command hp hd hu =>
    refine ⟨hu.params_eq, fun hne => .inr ?_, fun hne => .inr ?_, fun hne => .inr ?_⟩
    · obtain ⟨n, rfl, hn⟩ := hu.cap_eq_or.resolve_left hne
      exact ⟨_, _, _, n, hp, hd, hn⟩
    · exact ⟨_, _, _, _, hp, hd, hu.wp_eq_or.resolve_left hne⟩
    · exact ⟨_, _, _, _, hp, hd, hu.ldc_eq_or.resolve_left hne⟩
  | reset hp => exact ⟨rfl, fun _ => .inl ⟨_, hp⟩, fun _ => .inl ⟨_, hp⟩, fun _ => .inl ⟨_, hp⟩⟩
  | idle | illegal | dmaWrite | dmaReload | dmaStart | dmaRead =>
    exact ⟨rfl, fun hne => absurd rfl hne, fun hne => absurd rfl hne, fun hne => absurd rfl hne⟩

/-! ### The ring invariant (R16), as a statement about `wrap` -/

@[simp] theorem wrap_wrap (cap : Nat) (a : Int) : wrap cap (wrap cap a : Nat) = wrap cap a := by
  obtain rfl | hc := Nat.eq_zero_or_pos cap
  · rfl
  · exact wrap_nat_of_lt (wrap_lt hc a)

/-- A reduced cursor moves by an integer as the unreduced one does (R5, R100). -/
theorem wrap_wrap_add_int (cap : Nat) (a b : Int) : wrap cap (wrap cap a + b) = wrap cap (a + b) := by
  obtain rfl | hc := Nat.eq_zero_or_pos cap
  · rfl
  · unfold wrap
    simp only [if_neg hc.ne', Int.toNat_of_nonneg (Int.emod_nonneg a (by omega : (cap : Int) ≠ 0)), Int.emod_add_emod]

theorem wrap_le (cap : Nat) (a : Int) : wrap cap a ≤ cap := by
  obtain rfl | hc := Nat.eq_zero_or_pos cap
  · exact le_rfl
  · exact (wrap_lt hc a).le

/-- I3 and the ranges of the cursors say that `rp` is reduced and that `wp` is where `sz` elements from it end. -/
theorem ringInv_iff : RingInv s ↔
    s.sz ≤ s.cap ∧ wrap s.cap (s.rp : Nat) = s.rp ∧ s.wp = wrap s.cap (s.rp + s.sz : Nat) ∧ s.ldc ≤ s.cap
      ∧ s.cap ≤ s.params.cmax := by
  constructor
  · rintro ⟨hsz, hwp, hpos, hzero, hldc, hcap⟩
    refine ⟨hsz, ?_, hwp, hldc, hcap⟩
    obtain hc | hc := Nat.eq_zero_or_pos s.cap
    · rw [hc, (hzero hc).1]; rfl
    · exact wrap_nat_of_lt (hpos hc).1
  · rintro ⟨hsz, hrp, hwp, hldc, hcap⟩
    refine ⟨hsz, hwp, fun hc => ⟨?_, ?_⟩, fun hc => ⟨?_, ?_⟩, hldc, hcap⟩
    · rw [← hrp]; exact wrap_lt hc _
    · rw [hwp]; exact wrap_lt hc _
    · rw [← hrp, hc]; rfl
    · rw [hwp, hc]; rfl

theorem RingInv.dropFront {k : Nat} (h : RingInv s) (hk : k ≤ s.sz) : RingInv (s.dropFront k) := by
  obtain ⟨hsz, -, hwp, hldc, hcap⟩ := ringInv_iff.mp h
  refine ringInv_iff.mpr ⟨(Nat.sub_le _ _).trans hsz, wrap_wrap _ _, ?_, hldc, hcap⟩
  simp only [State.dropFront_wp, State.dropFront_cap, State.dropFront_rp, State.dropFront_sz]
  rw [wrap_wrap_add, hwp, show s.rp + k + (s.sz - k) = s.rp + s.sz by omega]

theorem RingInv.advanceWrite {k : Nat} (h : RingInv s) (hk : k ≤ s.room) : RingInv (s.advanceWrite k) := by
  obtain ⟨hsz, hrp, hwp, hldc, hcap⟩ := ringInv_iff.mp h
  have hroom : s.sz + k ≤ s.cap := by unfold State.room at hk; omega
  refine ringInv_iff.mpr ⟨hroom, hrp, ?_, hldc, hcap⟩
  simp only [State.advanceWrite_wp, State.advanceWrite_cap, State.advanceWrite_rp, State.advanceWrite_sz]
  rw [hwp, wrap_wrap_add, Nat.add_assoc]

/-- The reconciliation never counts backwards (R101). -/
theorem dmaDiff_nonneg {cap ldc rem : Nat} (hl : ldc ≤ cap) (hr : rem ≤ cap) : 0 ≤ dmaDiff cap ldc rem := by
  simp only [dmaDiff]
  split <;> omega

/-- On overrun the oldest elements go and the ring is full (R100, R102). -/
theorem State.reconcile_of_overrun {rem : Nat} {d : Int} (h : (s.cap : Int) < s.sz + d) :
    (s.reconcile rem d).rp = wrap s.cap ((s.rp : Int) + (s.sz + d - s.cap)) ∧ (s.reconcile rem d).sz = s.cap := by
  simp [State.reconcile, h]

/-- Without overrun the read cursor stays (R100). -/
theorem State.reconcile_of_fits {rem : Nat} {d : Int} (h : (s.sz : Int) + d ≤ s.cap) :
    (s.reconcile rem d).rp = s.rp ∧ (s.reconcile rem d).sz = ((s.sz : Int) + d).toNat := by
  simp [State.reconcile, h.not_gt]

theorem RingInv.reconcile {rem : Nat} {d : Int} (h : RingInv s) (hd : 0 ≤ d) : RingInv (s.reconcile rem d) := by
  obtain ⟨-, hrp, hwp, -, hcap⟩ := ringInv_iff.mp h
  have hwp' : wrap s.cap ((s.wp : Int) + d) = wrap s.cap ((s.rp : Int) + (s.sz + d)) := by
    rw [hwp, wrap_wrap_add_int, Nat.cast_add, Int.add_assoc]
  rw [ringInv_iff, State.reconcile_cap, State.reconcile_wp, State.reconcile_ldc, State.reconcile_params, hwp']
  obtain hover | hfits := lt_or_ge (s.cap : Int) (s.sz + d)
  · obtain ⟨hrp', hsz'⟩ := State.reconcile_of_overrun (rem := rem) hover
    rw [hrp', hsz']
    refine ⟨le_rfl, wrap_wrap _ _, ?_, Nat.sub_le _ _, hcap⟩
    rw [Nat.cast_add, wrap_wrap_add_int, Int.add_assoc, Int.sub_add_cancel]
  · obtain ⟨hrp', hsz'⟩ := State.reconcile_of_fits (rem := rem) hfits
    rw [hrp', hsz']
    refine ⟨by omega, hrp, ?_, Nat.sub_le _ _, hcap⟩
    rw [Nat.cast_add, Int.toNat_of_nonneg (by omega)]

/-- SETRP leaves `wp` and recomputes the count that leads to it (R103). -/
theorem RingInv.setReadCursor {pos : Nat} (h : RingInv s) (hpos : pos < s.cap) :
    RingInv { s with rp := pos, sz := wrap s.cap ((s.wp : Int) - pos) } := by
  obtain ⟨-, -, hwp, hldc, hcap⟩ := ringInv_iff.mp h
  refine ringInv_iff.mpr ⟨wrap_le _ _, wrap_nat_of_lt hpos, ?_, hldc, hcap⟩
  have hback : wrap s.cap (wrap s.cap ((s.wp : Int) - pos) + pos) = wrap s.cap (s.wp : Nat) := by
    rw [wrap_wrap_add_int, Int.sub_add_cancel]
  have hreduced : wrap s.cap (s.wp : Nat) = s.wp := by rw [hwp, wrap_wrap]
  rw [Nat.add_comm, Nat.cast_add, hback, hreduced]

theorem RingInv.resized {n : Nat} (hn : n ≤ s.params.cmax) : RingInv (s.resized n) :=
  ringInv_iff.mpr ⟨Nat.min_le_right _ _, wrap_zero n, by simp, Nat.zero_le _, hn⟩

/-- A ring of any capacity up to CMAX is sound when both cursors and the count are 0 (R29, R121). -/
theorem ringInv_of_zero (hrp : s.rp = 0) (hwp : s.wp = 0) (hsz : s.sz = 0) (hldc : s.ldc ≤ s.cap)
    (hcap : s.cap ≤ s.params.cmax) : RingInv s :=
  ringInv_iff.mpr ⟨by omega, by rw [hrp, wrap_zero], by rw [hwp, hrp, hsz, wrap_zero], hldc, hcap⟩

/-! ### Storage after reset (R17) -/

theorem Memory.read_initial_of_prefill {p : Params} (hp : p.prefill = true) {a : Nat} (ha : a < p.cmax) :
    (Memory.initial p).read a = some p.emptyValue := by
  rw [Memory.initial, if_pos hp, Memory.read_ofBytes_zero, List.getElem?_replicate_of_lt ha]

theorem Memory.read_initial_of_not_prefill {p : Params} (hp : p.prefill = false) (a : Nat) :
    (Memory.initial p).read a = none := by
  rw [Memory.initial, hp]; rfl

theorem Memory.initial_lt_cmax {p : Params} {c : Host.Cell} (hc : c ∈ Memory.initial p) : c.1 < p.cmax := by
  unfold Memory.initial at hc
  split at hc
  · have hlt := (Memory.mem_ofBytes hc).2
    simpa using hlt
  · cases hc

/-! ### Each operation keeps the invariants -/

/-- Every cell an access addresses exists, at capacity 0 too (R10, R89). -/
theorem Inv.wrap_lt_cmax (h : Inv s) (a : Int) : wrap s.cap a < s.params.cmax := by
  obtain ⟨⟨hcmax, -⟩, ⟨-, -, -, -, -, hcap⟩, -⟩ := h
  obtain hc | hc := Nat.eq_zero_or_pos s.cap
  · rw [hc]; exact hcmax
  · exact (wrap_lt hc a).trans_le hcap

theorem Inv.dropFront {k : Nat} (h : Inv s) (hk : k ≤ s.sz) : Inv (s.dropFront k) := by
  obtain ⟨hparams, hring, hrest⟩ := h
  exact ⟨hparams, hring.dropFront hk, hrest⟩

theorem Inv.advanceWrite {k : Nat} (h : Inv s) (hk : k ≤ s.room) : Inv (s.advanceWrite k) := by
  obtain ⟨hparams, hring, hrest⟩ := h
  exact ⟨hparams, hring.advanceWrite hk, hrest⟩

theorem Inv.writeCell {a : Nat} {v : Byte} (h : Inv s) (ha : a < s.params.cmax) : Inv (s.writeCell a v) := by
  obtain ⟨hparams, hring, hconfig, hqueue, htick, hdma, hwf, hcells⟩ := h
  refine ⟨hparams, hring, hconfig, hqueue, htick, hdma, Memory.write_wf hwf a v, fun c hc => ?_⟩
  obtain rfl | hc := Memory.mem_write hc
  · exact ha
  · exact hcells c hc

theorem Inv.memWrite {addr : Nat} {vs : List Byte} (h : Inv s) : Inv (s.memWrite addr vs) := by
  induction vs generalizing s addr with
  | nil => exact h
  | cons v vs ih => exact ih (h.writeCell (h.wrap_lt_cmax _))

theorem Inv.enqueue {payload : List Byte} (h : Inv s) (hroom : s.fqFull = false)
    (hlen : payload.length ≤ s.params.cmax) : Inv (s.enqueue payload) := by
  obtain ⟨hparams, hring, hconfig, ⟨hdepth, hpayloads⟩, ⟨hrising, htick⟩, hrest⟩ := h
  have hle : ∀ f ∈ s.fq, f.ts ≤ s.tickSample := fun f hf => BitVec.le_trans (htick f hf) s.tick_le_tickSample
  have hne : s.fq.length ≠ s.params.fqDepth := by simpa [State.fqFull] using hroom
  refine ⟨hparams, hring, hconfig, ⟨?_, ?_⟩, ⟨?_, ?_⟩, hrest⟩
  · simp only [State.enqueue_fq, List.length_append, List.length_singleton, State.enqueue_params]
    omega
  · simpa [or_imp, forall_and] using And.intro hpayloads hlen
  · simpa [List.pairwise_append] using And.intro hrising hle
  · simpa [or_imp, forall_and] using hle

theorem Inv.extract {q c : Nat} (h : Inv s) (hroom : s.fqFull = false) (hc : c ≤ s.sz) :
    Inv (s.drawn.extract (s.lseq.take q) c) := by
  have hlen : (s.lseq.take q).length ≤ s.params.cmax := by
    obtain ⟨-, ⟨hsz, -, -, -, -, hcap⟩, -⟩ := h
    rw [List.length_take, State.lseq_length]
    omega
  have hdrawn : Inv s.drawn := h
  exact (hdrawn.enqueue hroom hlen).dropFront hc

/-- Every pass of the scan drops no more than the valid bytes and queues no more than there is room for (R140, R146). -/
theorem Inv.scan {md : Mode} {fuel n : Nat} (h : Inv s) : Inv (scan md fuel s n).1 := by
  refine scan_induct (md := md) (fun s _ => Inv s) ?_ ?_ ?_ fuel s n h
  · intro s n h
    exact h
  · intro s n k h hpass
    obtain ⟨-, -, -, hk, -⟩ := State.decidePass_openFrame hpass
    exact h.dropFront hk
  · intro s n q c h hpass hroom
    obtain ⟨-, hc, -⟩ := State.decidePass_frame hpass
    exact h.extract hroom hc

theorem Inv.resized {n : Nat} (h : Inv s) (hn : n ≤ s.params.cmax) : Inv (s.resized n) := by
  obtain ⟨hparams, -, hconfig, hqueue, htick, hdma, -⟩ := h
  refine ⟨hparams, RingInv.resized hn, hconfig, hqueue, htick, hdma, Memory.ofBytes_wf _ _, fun c hc => ?_⟩
  obtain ⟨-, hlt⟩ := Memory.mem_ofBytes hc
  rw [State.memRead_length] at hlt
  simp only [State.resized_params]
  omega

theorem Inv.dequeue {f : Frame} {rest : List Frame} (h : Inv s) (hfq : s.fq = f :: rest) : Inv { s with fq := rest } := by
  obtain ⟨hparams, hring, hconfig, ⟨hdepth, hpayloads⟩, ⟨hrising, htick⟩, hrest⟩ := h
  rw [hfq] at hdepth hpayloads hrising htick
  exact ⟨hparams, hring, hconfig, ⟨(Nat.le_succ _).trans hdepth, List.forall_mem_of_forall_mem_cons hpayloads⟩,
    ⟨hrising.of_cons, List.forall_mem_of_forall_mem_cons htick⟩, hrest⟩

/-- Hardware reset needs of the state before it only what it does not write: the parameters and the DMA agent (R29, R180). -/
theorem inv_hardwareReset (hparams : s.params.wf) (hdma : DmaInv s) : Inv s.hardwareReset := by
  have ⟨_, _, hcinit, _⟩ := hparams
  refine ⟨hparams, ringInv_of_zero rfl rfl rfl (Nat.zero_le _) hcinit, ⟨Nat.zero_le _, Nat.zero_le _⟩,
    ⟨Nat.zero_le _, by simp⟩, ⟨List.Pairwise.nil, by simp⟩, hdma, Memory.initial_wf _, fun c hc => ?_⟩
  exact Memory.initial_lt_cmax hc

theorem Performs.inv (h : Performs s i u) (hs : Inv s) : Inv u := by
  have ⟨hparams, hring, hconfig, hqueue, hrest⟩ := hs
  have ⟨hsz, _, _, _, hldc, hcap⟩ := hring
  cases h with
  | answer | look | setXlen => exact hs
  | push v hne =>
    have hroom : 1 ≤ s.room := by unfold State.room; omega
    exact (hs.writeCell (hs.wrap_lt_cmax _)).advanceWrite hroom
  | pushn len hk => exact hs.memWrite.advanceWrite (by simpa [State.room] using hk)
  | discard i hk => exact hs.dropFront hk
  | take i hk => exact Inv.dropFront (s := s.drawn) hs hk
  | dmasync hrem => exact ⟨hparams, hring.reconcile (dmaDiff_nonneg hldc hrem), hconfig, hqueue, hrest⟩
  | setrp hpos => exact ⟨hparams, hring.setReadCursor hpos, hconfig, hqueue, hrest⟩
  | resize hn => exact hs.resized hn
  | clear => exact ⟨hparams, ringInv_of_zero rfl rfl rfl hldc hcap, hconfig, hqueue, hrest⟩
  | run => exact hs.scan
  | recv hfq => exact hs.dequeue hfq
  | setSof i hlen => exact ⟨hparams, hring, ⟨hlen, hconfig.2⟩, hqueue, hrest⟩
  | setEof i hlen => exact ⟨hparams, hring, ⟨hconfig.1, hlen⟩, hqueue, hrest⟩

theorem Steps.inv (h : Steps s t) (hs : Inv s) : Inv t := by
  have ⟨hparams, hring, hconfig, hqueue, htick, ⟨hrem, hlen⟩, hstore⟩ := hs
  cases h with
  | idle | illegal | dmaRead => exact hs
  | command hp hd hu => exact hu.inv hs
  | dmaWrite hp hcell =>
    obtain ⟨hparams, hring, hconfig, hqueue, htick, -, hstore⟩ := hs.writeCell hcell
    exact ⟨hparams, hring, hconfig, hqueue, htick, ⟨(Nat.sub_le _ _).trans hrem, hlen⟩, hstore⟩
  | dmaReload => exact ⟨hparams, hring, hconfig, hqueue, htick, ⟨le_rfl, hlen⟩, hstore⟩
  | dmaStart hp hn => exact ⟨hparams, hring, hconfig, hqueue, htick, ⟨le_rfl, hn⟩, hstore⟩
  | reset => exact inv_hardwareReset hparams ⟨hrem, hlen⟩

/-- Settles O48: every way of a step keeps the invariants; a ring Full and Empty at once has `cap = sz = 0`. -/
theorem stepKeepsTheInvariants : Obligations.StepKeepsTheInvariants := by
  unfold Obligations.StepKeepsTheInvariants
  intro s t hs h
  refine ⟨(step_steps h).inv hs, fun hfull hempty => ?_⟩
  simp only [State.isFull, State.isEmpty, beq_iff_eq] at hfull hempty
  omega

/-- Settles O49: the state after reset is what a hardware reset makes of it. -/
theorem resetMeetsTheInvariants : Obligations.ResetMeetsTheInvariants :=
  inv_hardwareReset (s := State.reset) (by decide) (by decide)

/-! ### The framing mode and the values after reset (R22, R29) -/

/-- Settles O39: a sequence is configured when it is not empty, a length when it is not 0. -/
theorem modePriority : Obligations.ModePriority := by
  unfold Obligations.ModePriority
  intro s
  have hxlen : 0 < s.xlen.toNat ↔ s.xlen ≠ 0#16 := by bv_omega
  exact if_congr List.length_pos_iff rfl (if_congr List.length_pos_iff rfl (if_congr hxlen rfl rfl))

/-- Settles O29: the reset event is the hardware reset of the state. -/
theorem hardwareResetValues : Obligations.HardwareResetValues := by
  unfold Obligations.HardwareResetValues
  intro s rest hp
  refine ⟨(s.takeEvent rest).hardwareReset, by simp [step, hp], rfl, rfl, rfl, rfl, rfl, rfl,
    fun hfill a ha => Memory.read_initial_of_prefill hfill ha, fun hfill a => Memory.read_initial_of_not_prefill hfill a,
    rfl, rfl, rfl, rfl, rfl, rfl, beq_iff_eq.trans eq_comm, rfl, rfl, rfl, rfl⟩

end Sys2Proof.Machine
end

section
/-! PROOFS of the family 20_memory.md: the DMA agent's write, reload, start and counter read (R44 to R47), the commands that
change no state (R43), the cells at and beyond the capacity (R54). -/

namespace Sys2Proof.Machine

/-! ### The DMA agent's steps (R44 to R47) -/

section Agent
variable {s : State} {rest : List Event}

theorem step_of_pending_dmaWrite {b : Byte} (hp : s.pending = .dmaWrite b :: rest) :
    step s = dmaWrite b (s.takeEvent rest) := by
  simp [step, hp]

theorem step_of_pending_dmaReload (hp : s.pending = .dmaReload :: rest) : step s = dmaReload (s.takeEvent rest) := by
  simp [step, hp]

theorem step_of_pending_dmaStart {n : Nat} (hp : s.pending = .dmaStart n :: rest) :
    step s = dmaStart n (s.takeEvent rest) := by
  simp [step, hp]

theorem step_of_pending_dmaRead (hp : s.pending = .dmaRead :: rest) : step s = dmaRead (s.takeEvent rest) := by
  simp [step, hp]

/-- R45 where the write step is enabled and its cell exists. -/
theorem dmaWrite_of_enabled {b : Byte} (hrem : 1 ≤ s.dmaRem) (hcell : s.dmaIndex < s.params.cmax) :
    dmaWrite b s = .next { s.writeCell s.dmaIndex b with dmaRem := s.dmaRem - 1 } := by
  rw [dmaWrite, if_neg (by omega), if_pos hcell]

theorem dmaReload_of_enabled (hrem : s.dmaRem = 0) (hlen : 1 ≤ s.dmaLen) :
    dmaReload s = .next { s with dmaRem := s.dmaLen } :=
  if_pos ⟨hrem, hlen⟩

theorem dmaStart_of_le {n : Nat} (hn : n ≤ s.params.cmax) : dmaStart n s = .next { s with dmaLen := n, dmaRem := n } :=
  if_pos hn

/-- While the agent has a byte to write, the cell it writes exists (R44, R45). -/
theorem DmaInv.dmaIndex_lt_cmax (h : DmaInv s) (hrem : 1 ≤ s.dmaRem) : s.dmaIndex < s.params.cmax := by
  obtain ⟨hle, hlen⟩ := h
  unfold State.dmaIndex
  omega

/-- The agent's events write storage and the agent's variables: no register of RBFT, nothing the host observes (R45, R46). -/
theorem sameRegisters_of_agent (s : State) (es : List Event) (m : Memory) (len rem : Nat) :
    SameRegisters s { s with pending := es, mem := m, dmaLen := len, dmaRem := rem } :=
  ⟨⟨rfl, rfl, rfl⟩, ⟨rfl, rfl⟩, ⟨rfl, rfl, rfl⟩, ⟨rfl, rfl⟩, rfl, rfl, rfl, rfl, rfl⟩

end Agent

/-- Settles O26: the write step is enabled and its cell exists. -/
theorem dmaWriteStep : Obligations.DmaWriteStep := by
  unfold Obligations.DmaWriteStep
  rintro s b rest ⟨-, -, -, -, -, hdma, -⟩ hp hrem
  have hstep := (step_of_pending_dmaWrite hp).trans (dmaWrite_of_enabled hrem (hdma.dmaIndex_lt_cmax hrem))
  exact ⟨_, hstep, rfl, Memory.read_write_same _ _ _, fun a ha => Memory.read_write_other _ ha _, rfl, rfl,
    sameRegisters_of_agent s _ _ _ _⟩

/-- Settles O27: each of the three events writes the agent's variables or the host's trace alone. -/
theorem dmaReloadStartAndRead : Obligations.DmaReloadStartAndRead := by
  unfold Obligations.DmaReloadStartAndRead
  refine fun s rest => ⟨fun hp hrem hlen => ?reload, fun n hp hn => ?start, fun hp => ?read⟩
  case reload =>
    exact ⟨_, (step_of_pending_dmaReload hp).trans (dmaReload_of_enabled hrem hlen), rfl, rfl, rfl, fun _ => rfl,
      sameRegisters_of_agent s _ _ _ _⟩
  case start =>
    exact ⟨_, (step_of_pending_dmaStart hp).trans (dmaStart_of_le hn), rfl, rfl, rfl, Nat.sub_self n, fun _ => rfl,
      sameRegisters_of_agent s _ _ _ _⟩
  case read => exact ⟨_, step_of_pending_dmaRead hp, rfl, rfl⟩

/-! ### The commands that change no state (R43) -/

/-- A response changes the channel alone. -/
theorem unchanged_reply (s : State) (r : Response) : Unchanged s (s.reply r) :=
  ⟨fun _ => rfl, ⟨rfl, rfl, rfl⟩, ⟨rfl, rfl⟩, ⟨rfl, rfl, rfl⟩, ⟨rfl, rfl⟩, ⟨rfl, rfl, rfl, rfl, rfl⟩, rfl, rfl⟩

/-- A read of the store is only counted (R17, R43). -/
theorem unchanged_drawn_reply (s : State) (r : Response) : Unchanged s (s.drawn.reply r) := unchanged_reply s r

/-- Settles O55: each of these commands responds from the state it found, after a read of the store at most. -/
theorem inspectionChangesNothing : Obligations.InspectionChangesNothing := by
  unfold Obligations.InspectionChangesNothing
  intro i s hi hb
  cases i with
  | nop | frames | bytes => exact ⟨_, State.transact_eq hb _, unchanged_reply s _⟩
  | peekn len => exact ⟨_, State.transact_eq hb _, unchanged_drawn_reply s _⟩
  | peek =>
    rw [exec, execPeek, State.transact_eq (n := 0) hb]
    split
    · exact ⟨_, rfl, unchanged_reply s _⟩
    · exact ⟨_, rfl, unchanged_drawn_reply s _⟩
  | index k =>
    rw [exec, execIndex, State.transact_eq (n := 0) hb]
    split
    · exact ⟨_, rfl, unchanged_drawn_reply s _⟩
    · exact ⟨_, rfl, unchanged_reply s _⟩
  | rdsr r =>
    rw [exec, execRdsr, State.transact_eq (n := 0) hb]
    split <;> exact ⟨_, rfl, unchanged_reply s _⟩
  | _ => simp [Instr.opcode] at hi

/-! ### The cells at and beyond the capacity (R54) -/

section Stores
variable {s u : State} {m : Memory}

/-- Two results answer next, with states that differ in storage alone and agree on every cell below `c`. -/
def AgreeBelow (c : Nat) (r r' : Result) : Prop :=
  ∃ t t', r = .next t ∧ r' = .next t' ∧ t' = { t with mem := t'.mem } ∧ ∀ a < c, t'.mem.read a = t.mem.read a

theorem agreeBelow_next {c : Nat} (h : ∀ a < c, m.read a = u.mem.read a) :
    AgreeBelow c (.next u) (.next { u with mem := m }) :=
  ⟨_, _, rfl, rfl, rfl, h⟩

theorem agreeBelow_ite {c : Nat} {p : Prop} [Decidable p] {a a' b b' : Result} (ha : p → AgreeBelow c a a')
    (hb : ¬ p → AgreeBelow c b b') : AgreeBelow c (if p then a else b) (if p then a' else b') := by
  split
  · exact ha ‹_›
  · exact hb ‹_›

theorem agreeBelow_transact {c n : Nat} {b b' : Result} (hn : s.inBeats.length = n) (h : AgreeBelow c b b') :
    AgreeBelow c (s.transact n b) (State.transact { s with mem := m } n b') := by
  rwa [State.transact_eq hn, State.transact_eq (s := { s with mem := m }) hn]

/-- What a cell reads as after a write depends on no other cell. -/
theorem Memory.read_write_congr {m m' : Memory} {a : Nat} (h : m.read a = m'.read a) (b : Nat) (v : Byte) :
    (m.write b v).read a = (m'.write b v).read a := by
  rw [Memory.read_write, Memory.read_write, h]

/-- What a cell reads as after a MemWrite depends on no other cell. -/
theorem State.memWrite_read_congr {a : Nat} (h : m.read a = s.mem.read a) (addr : Nat) (vs : List Byte) :
    (State.memWrite { s with mem := m } addr vs).mem.read a = (s.memWrite addr vs).mem.read a := by
  induction vs generalizing s m addr with
  | nil => exact h
  | cons v vs ih => exact ih (s := s.writeCell _ v) (Memory.read_write_congr h _ v) _

theorem State.cell_congr {a : Nat} (h : m.read a = s.mem.read a) : State.cell { s with mem := m } a = s.cell a := by
  unfold State.cell
  rw [h]

/-- A MemRead of at most `cap` elements, also of none at capacity 0, addresses cells below the capacity (R54, R89). -/
theorem State.memRead_congr (hm : ∀ a < s.cap, m.read a = s.mem.read a) (addr : Nat) {k : Nat} (hk : k ≤ s.cap) :
    State.memRead { s with mem := m } addr k = s.memRead addr k := by
  refine List.map_congr_left fun j hj => ?_
  have hpos : 0 < s.cap := (Nat.zero_lt_of_lt (List.mem_range.mp hj)).trans_le hk
  exact State.cell_congr (hm _ (wrap_lt hpos _))

/-- RESIZE copies the valid elements only, and rewrites storage as a whole (R120). -/
theorem State.resized_congr (hsz : s.sz ≤ s.cap) (hm : ∀ a < s.cap, m.read a = s.mem.read a) (n : Nat) :
    State.resized { s with mem := m } n = s.resized n := by
  have hkeep := State.memRead_congr hm s.rp ((Nat.min_le_left s.sz n).trans hsz)
  simp only [State.resized, hkeep]
  rfl

/-- The scan reads the valid elements only, so it decides and queues the same over both stores (R140). -/
theorem scan_congr (md : Mode) (fuel n : Nat) (hsz : s.sz ≤ s.cap) (hm : ∀ a < s.cap, m.read a = s.mem.read a) :
    scan md fuel { s with mem := m } n
      = ({ (scan md fuel s n).1 with mem := m }, (scan md fuel s n).2) := by
  induction fuel generalizing s n with
  | zero => rfl
  | succ fuel ih =>
    have hlseq : State.lseq { s with mem := m } = s.lseq := State.memRead_congr hm _ hsz
    have hpass : State.decidePass { s with mem := m } md s.lseq = s.decidePass md s.lseq := rfl
    have hroom : State.fqFull { s with mem := m } = s.fqFull := rfl
    unfold scan
    rw [hlseq, hpass, hroom]
    split
    · rfl
    · exact ih (s := s.drawn.openFrameAfter _) n ((Nat.sub_le _ _).trans hsz) hm
    · split
      · rfl
      · exact ih (s := s.drawn.extract _ _) (n + 1) ((Nat.sub_le _ _).trans hsz) hm

/-- Over stores that agree below the capacity a command answers the same, and the stores it leaves agree there. -/
theorem exec_agreeBelow {i : Instr} (hs : Inv s) (hb : s.inBeats.length = i.beatCount)
    (hm : ∀ a < s.cap, m.read a = s.mem.read a) : AgreeBelow s.cap (exec i s) (exec i { s with mem := m }) := by
  obtain ⟨-, ⟨hsz, -⟩, -⟩ := hs
  have hcell (a : Int) (hpos : 0 < s.cap) :
      State.cell { s with mem := m } (wrap s.cap a) = s.cell (wrap s.cap a) := State.cell_congr (hm _ (wrap_lt hpos a))
  have hmemRead {k : Nat} (hk : k ≤ s.sz) : State.memRead { s with mem := m } s.rp k = s.memRead s.rp k :=
    State.memRead_congr hm _ (hk.trans hsz)
  cases i with
  | nop | frames | bytes | popn | clear | clrsof | clreof | setlen | clrlen =>
    exact agreeBelow_transact hb (agreeBelow_next hm)
  | setsof | seteof | dmasync | setrp =>
    exact agreeBelow_transact hb (agreeBelow_ite (fun _ => agreeBelow_next hm) fun _ => agreeBelow_next hm)
  | push v =>
    exact agreeBelow_transact hb (agreeBelow_ite (fun _ => agreeBelow_next hm) fun _ =>
      agreeBelow_next fun a ha => Memory.read_write_congr (hm a ha) _ v)
  | pushn len =>
    refine agreeBelow_transact hb ?_
    rw [State.memWrite_eq { s with mem := m }, State.memWrite_eq s]
    exact agreeBelow_next fun a ha => State.memWrite_read_congr (hm a ha) _ _
  | pop | peek =>
    refine agreeBelow_transact hb (agreeBelow_ite (fun _ => agreeBelow_next hm) fun hne => ?_)
    have hsome : s.sz ≠ 0 := by simpa [State.isEmpty] using hne
    rw [State.readAddr, State.readAddr, hcell _ (by omega)]
    exact agreeBelow_next hm
  | index k =>
    refine agreeBelow_transact hb (agreeBelow_ite (fun hk => ?_) fun _ => agreeBelow_next hm)
    rw [State.readAddr, State.readAddr, hcell _ (by omega)]
    exact agreeBelow_next hm
  | read | peekn =>
    refine agreeBelow_transact hb ?_
    dsimp only
    rw [hmemRead (Nat.min_le_right _ _)]
    exact agreeBelow_next hm
  | resize n =>
    refine agreeBelow_transact hb (agreeBelow_ite (fun _ => agreeBelow_next hm) fun _ => ?_)
    rw [State.resized_congr hsz hm]
    exact agreeBelow_next fun _ _ => rfl
  | run =>
    have hmode : State.mode { s with mem := m } = s.mode := rfl
    obtain ⟨hmem, -⟩ := scan_frame s.mode (s.sz + 1) s 0
    refine agreeBelow_transact hb ?_
    rw [hmode, scan_congr _ _ _ hsz hm]
    exact agreeBelow_next fun a ha => (hm a ha).trans (congrArg (·.read a) hmem.symm)
  | recv =>
    refine agreeBelow_transact hb ?_
    dsimp only
    split <;> exact agreeBelow_next hm
  | rdsr r =>
    have hregister : State.statusRegister { s with mem := m } = s.statusRegister := rfl
    refine agreeBelow_transact hb ?_
    rw [hregister]
    split <;> exact agreeBelow_next hm

/-- PUSH and PUSHN write below the capacity, since they write where there is room; RESIZE aside, nothing else writes (R10). -/
theorem Performs.mem_read_of_cap_le {i : Instr} (h : Performs s i u) (hi : i.opcode ≠ 0x1A#8) (hsz : s.sz ≤ s.cap) {a : Nat}
    (ha : s.cap ≤ a) : u.mem.read a = s.mem.read a := by
  have hne (hpos : 0 < s.cap) (x : Int) : a ≠ wrap s.cap x := ((wrap_lt hpos x).trans_le ha).ne'
  cases h with
  | push v hroom => exact Memory.read_write_other _ (hne (by omega) _) v
  | pushn len hk =>
    refine State.memWrite_read_other _ _ _ _ fun j hj => hne ?_ _
    have hroom : j < s.room := (hj.trans_le (List.length_take_le _ _)).trans_le hk
    unfold State.room at hroom
    omega
  | resize => exact absurd rfl hi
  | run =>
    obtain ⟨hmem, -⟩ := scan_frame s.mode (s.sz + 1) s 0
    rw [hmem]
  | _ => rfl

end Stores

/-- Settles O54: what a command reads and, RESIZE aside, what it writes lies below the capacity. -/
theorem cellsBeyondTheCapacityDoNotMatter : Obligations.CellsBeyondTheCapacityDoNotMatter := by
  unfold Obligations.CellsBeyondTheCapacityDoNotMatter
  intro i s m hs hb hm
  obtain ⟨t, t', ht, ht', heq, hbelow⟩ := exec_agreeBelow hs hb hm
  refine ⟨t, t', ht, ht', heq, hbelow, fun hi a ha => ?_⟩
  obtain ⟨-, ⟨hsz, -⟩, -⟩ := hs
  obtain ⟨u, r, hu, rfl⟩ := exec_responds i s t ht
  exact hu.mem_read_of_cap_le hi hsz ha

end Sys2Proof.Machine
end

section
/-! PROOFS of the family 30_encoding.md: command words against the opcode map (R61, R67, R68), the transaction (R60, R63, R72)
and the items of its response (R64 to R66). -/

namespace Sys2Proof

/-! ### The fields of a command word (R61) -/

section Fields
variable (op z : Byte) (imm : Half) (w v : Word)

@[simp] theorem opField_append : opField (op ++ z ++ imm) = op := by
  unfold opField
  rw [BitVec.extractLsb'_append_eq_of_le (v := 16) (by omega)]
  exact BitVec.extractLsb'_append_eq_left

@[simp] theorem zField_append : zField (op ++ z ++ imm) = z := by
  unfold zField
  rw [BitVec.extractLsb'_append_eq_of_le (v := 16) (by omega)]
  exact BitVec.extractLsb'_append_eq_right

@[simp] theorem immField_append : immField (op ++ z ++ imm) = imm := BitVec.extractLsb'_append_eq_right

/-- A word is its three fields. -/
theorem append_fields : opField w ++ zField w ++ immField w = w := by
  unfold opField zField immField
  rw [BitVec.extractLsb'_append_extractLsb'_eq_extractLsb' (by omega),
    BitVec.extractLsb'_append_extractLsb'_eq_extractLsb' (by omega)]
  exact BitVec.extractLsb'_eq_self

theorem opField_and : opField (w &&& v) = opField w &&& opField v := BitVec.extractLsb'_and ..

theorem zField_and : zField (w &&& v) = zField w &&& zField v := BitVec.extractLsb'_and ..

theorem immField_and : immField (w &&& v) = immField w &&& immField v := BitVec.extractLsb'_and ..

end Fields

@[simp] theorem opField_encode (i : Instr) : opField (encode i) = i.opcode := opField_append _ _ _

@[simp] theorem zField_encode (i : Instr) : zField (encode i) = 0#8 := zField_append _ _ _

@[simp] theorem immField_encode (i : Instr) : immField (encode i) = i.operand := immField_append _ _ _

theorem encode_eq_of_fields {i : Instr} {w : Word} (hop : i.opcode = opField w) (hz : zField w = 0#8)
    (himm : i.operand = immField w) : encode i = w := by
  rw [encode, hop, ← hz, himm, append_fields]

/-! ### The element of PUSH (R62) -/

theorem high_eq_zero_iff (imm : Half) : imm.extractLsb' 8 8 = 0#8 ↔ imm.toNat < 256 := by
  rw [← BitVec.toNat_inj, BitVec.extractLsb'_toNat, Nat.shiftRight_eq_div_pow]
  have := imm.isLt
  simp only [BitVec.toNat_ofNat]
  omega

theorem zero_append_low {imm : Half} (h : imm.extractLsb' 8 8 = 0#8) : 0#8 ++ imm.extractLsb' 0 8 = imm := by
  rw [← h, BitVec.extractLsb'_append_extractLsb'_eq_extractLsb' (by omega)]
  exact BitVec.extractLsb'_eq_self

theorem decodePush_element (v : Byte) : decodePush (0#8 ++ v) = .ok (.push v) := by
  unfold decodePush
  rw [if_pos BitVec.extractLsb'_append_eq_left, BitVec.extractLsb'_append_eq_right]

theorem and_high_eq_zero_iff (imm : Half) : imm &&& 0xFF00#16 = 0#16 ↔ imm.extractLsb' 8 8 = 0#8 := by
  have hhigh : (imm &&& 0xFF00#16).extractLsb' 8 8 = imm.extractLsb' 8 8 :=
    BitVec.extractLsb'_and.trans BitVec.and_allOnes
  have hlow : (imm &&& 0xFF00#16).extractLsb' 0 8 = 0#8 := BitVec.extractLsb'_and.trans BitVec.and_zero
  constructor
  · intro h
    rw [← hhigh, h]; rfl
  · intro h
    rw [← zero_append_low (hhigh.trans h), hlow]; rfl

/-! ### The decoder, opcode by opcode (R67, R68) -/

/-- The bits of `imm` that must be zero: all where there is no operand, `imm[15:8]` of PUSH (R61, R62). -/
def Instr.reserved : Instr → Half
  | .nop | .pop | .peek | .clear | .run | .recv | .clrsof | .clreof | .clrlen | .frames | .bytes => 0xFFFF#16
  | .push _ => 0xFF00#16
  | _ => 0#16

/-- A row's mask covers `op`, `z` and the reserved bits. -/
theorem row_mask (j : Instr) : j.row.mask = 0xFF#8 ++ 0xFF#8 ++ j.reserved := by
  cases j with
  | nop | pop | peek | clear | run | recv | clrsof | clreof | clrlen | frames | bytes => rfl
  | push v => exact show 0xFFFFFF00#32 = 0xFF#8 ++ 0xFF#8 ++ 0xFF00#16 by rfl
  | _ => exact show 0xFFFF0000#32 = 0xFF#8 ++ 0xFF#8 ++ 0#16 by rfl

/-- On the opcode of `j` the decoder gives a command of the row of `j` with the operand `imm`, or rejects an `imm` that has a
reserved bit set. -/
theorem decodeFields_opcode (j : Instr) (imm : Half) :
    (imm &&& j.reserved = 0#16 ∧
      ∃ i, decodeFields j.opcode imm = .ok i ∧ i.opcode = j.opcode ∧ i.operand = imm ∧ i.row = j.row) ∨
    (imm &&& j.reserved ≠ 0#16 ∧ ∃ e, decodeFields j.opcode imm = .error e) := by
  cases j with
  | nop | pop | peek | clear | run | recv | clrsof | clreof | clrlen | frames | bytes =>
    have hall : imm &&& 0xFFFF#16 = imm := BitVec.and_allOnes
    by_cases h : imm = 0#16
    · subst h; exact .inl ⟨rfl, _, rfl, rfl, rfl, rfl⟩
    · exact .inr ⟨fun h' => h (hall.symm.trans h'), _, if_neg h⟩
  | push v =>
    by_cases h : imm.extractLsb' 8 8 = 0#8
    · exact .inl ⟨(and_high_eq_zero_iff imm).mpr h, _, if_pos h, rfl, zero_append_low h, rfl⟩
    · exact .inr ⟨mt (and_high_eq_zero_iff imm).mp h, _, if_neg h⟩
  | _ => exact .inl ⟨BitVec.and_zero, _, rfl, rfl, rfl, rfl⟩

/-- The opcodes of R67. -/
def opcodes : List Byte :=
  [0x00#8, 0x10#8, 0x11#8, 0x12#8, 0x13#8, 0x14#8, 0x15#8, 0x16#8, 0x17#8, 0x18#8, 0x19#8, 0x1A#8, 0x1B#8,
    0x20#8, 0x21#8, 0x22#8, 0x23#8, 0x24#8, 0x25#8, 0x26#8, 0x27#8, 0x28#8, 0x29#8, 0x30#8]

/-- One command of each row, in the order of `opcodes`. -/
def oneOfEachRow : List Instr :=
  [.nop, .push 0, .pushn 0, .pop, .popn 0, .read 0, .peek, .peekn 0, .index 0, .dmasync 0, .setrp 0, .resize 0, .clear,
    .run, .recv, .setsof 0, .clrsof, .seteof 0, .clreof, .setlen 0, .clrlen, .frames, .bytes, .rdsr 0]

theorem mem_opcodes_iff {op : Byte} : op ∈ opcodes ↔ ∃ j : Instr, j.opcode = op := by
  constructor
  · intro h
    obtain ⟨j, -, hj⟩ := List.mem_map.mp (show op ∈ oneOfEachRow.map Instr.opcode from h)
    exact ⟨j, hj⟩
  · rintro ⟨j, rfl⟩
    cases j <;> simp [Instr.opcode, opcodes]

/-- Every case of the decoder but the last has an opcode of R67. -/
theorem decodeFields_of_not_mem_opcodes {op : Byte} (h : op ∉ opcodes) (imm : Half) :
    decodeFields op imm = .error (.unknownOpcode op) := by
  simp only [opcodes, List.mem_cons, ← BitVec.toNat_inj, BitVec.toNat_ofNat] at h
  unfold decodeFields
  split <;> simp_all

/-! ### Decode and encode (R67, R68) -/

theorem decode_of_z {w : Word} (hz : zField w = 0#8) : decode w = decodeFields (opField w) (immField w) := if_pos hz

/-- A decoded command has the fields of its word, and the word's `z` is zero. -/
theorem decode_eq_ok {w : Word} {i : Instr} (h : decode w = .ok i) :
    zField w = 0#8 ∧ i.opcode = opField w ∧ i.operand = immField w := by
  by_cases hz : zField w = 0#8
  · rw [decode_of_z hz] at h
    by_cases hop : opField w ∈ opcodes
    · obtain ⟨j, hj⟩ := mem_opcodes_iff.mp hop
      rw [← hj] at h ⊢
      obtain ⟨-, i', hok, hopcode, himm, -⟩ | ⟨-, e, herr⟩ := decodeFields_opcode j (immField w)
      · cases hok.symm.trans h
        exact ⟨hz, hopcode, himm⟩
      · cases herr.symm.trans h
    · cases (decodeFields_of_not_mem_opcodes hop _).symm.trans h
  · rw [decode, if_neg hz] at h
    cases h

theorem decodeFields_operand (i : Instr) : decodeFields i.opcode i.operand = .ok i := by
  cases i with
  | push v => exact decodePush_element v
  | _ => rfl

/-- Settles O2: the decoder reads back the fields the encoder wrote. -/
theorem decodeOfEncode : Obligations.DecodeOfEncode := by
  unfold Obligations.DecodeOfEncode
  intro i
  rw [decode_of_z (zField_encode i), opField_encode, immField_encode, decodeFields_operand]

/-- Settles O3: a decoded command has the fields of its word, and a word is its fields. -/
theorem encodeOfDecode : Obligations.EncodeOfDecode := by
  unfold Obligations.EncodeOfDecode
  intro w i h
  obtain ⟨hz, hop, himm⟩ := decode_eq_ok h
  exact encode_eq_of_fields hop hz himm

/-- The family EncodedRow, for every command (R67). -/
theorem encode_and_mask (i : Instr) : Laws.EncodedRow.Statement i := by
  cases i with
  | nop | pop | peek | clear | run | recv | clrsof | clreof | clrlen | frames | bytes =>
    unfold Laws.EncodedRow.Statement; decide
  | push v => exact Laws.EncodedRow.push v
  | _ =>
    simp only [Laws.EncodedRow.Statement, encode, Instr.opcode, Instr.operand, Instr.row]
    exact Laws.EncodedRow.masked_operand _ _

theorem operand_and_reserved (i : Instr) : i.operand &&& i.reserved = 0#16 := by
  obtain ⟨hzero, -⟩ | ⟨-, e, he⟩ := decodeFields_opcode i i.operand
  · exact hzero
  · cases (decodeFields_operand i).symm.trans he

theorem fields_and_mask (w : Word) (j : Instr) : opField (w &&& j.row.mask) = opField w
    ∧ zField (w &&& j.row.mask) = zField w ∧ immField (w &&& j.row.mask) = immField w &&& j.reserved := by
  rw [row_mask, opField_and, zField_and, immField_and, opField_append, zField_append, immField_append]
  exact ⟨BitVec.and_allOnes, BitVec.and_allOnes, rfl⟩

theorem fields_of_masked {w : Word} {j : Instr} (h : w &&& j.row.mask = j.row.value) :
    opField w = j.opcode ∧ zField w = 0#8 ∧ immField w &&& j.reserved = 0#16 := by
  obtain ⟨hop, hz, himm⟩ := fields_and_mask w j
  obtain ⟨hop', hz', himm'⟩ := fields_and_mask (encode j) j
  rw [h, ← encode_and_mask j] at hop hz himm
  rw [← hop, ← hz, ← himm, hop', hz', himm', opField_encode, zField_encode, immField_encode]
  exact ⟨rfl, rfl, operand_and_reserved j⟩

/-- Settles O4: the masked word fixes `op`, `z` and the reserved bits, and the decoder asks for no more. -/
theorem maskAndMatchDecideTheCommand : Obligations.MaskAndMatchDecideTheCommand := by
  unfold Obligations.MaskAndMatchDecideTheCommand
  intro w j
  constructor
  · intro h
    obtain ⟨hop, hz, himm⟩ := fields_of_masked h
    rw [decode_of_z hz, hop]
    obtain ⟨-, i, hi, -, -, hrow⟩ | ⟨hne, -⟩ := decodeFields_opcode j (immField w)
    · exact ⟨i, hi, hrow⟩
    · exact absurd himm hne
  · rintro ⟨i, hi, hrow⟩
    rw [← hrow, ← encodeOfDecode w i hi]
    exact encode_and_mask i

/-- A reserved bit is set: a command without operand with an `imm`, or PUSH of more than a byte (R68). -/
theorem reserved_set_iff (j : Instr) (imm : Half) : imm &&& j.reserved ≠ 0#16 ↔
    (j.opcode ∈ [0x00#8, 0x12#8, 0x15#8, 0x1B#8, 0x20#8, 0x21#8, 0x23#8, 0x25#8, 0x27#8, 0x28#8, 0x29#8] ∧ imm ≠ 0#16)
      ∨ (j.opcode = 0x10#8 ∧ 256 ≤ imm.toNat) := by
  cases j with
  | nop | pop | peek | clear | run | recv | clrsof | clreof | clrlen | frames | bytes =>
    have hall : imm &&& 0xFFFF#16 = imm := BitVec.and_allOnes
    simp [Instr.reserved, Instr.opcode, hall]
  | push v =>
    have hpush := (and_high_eq_zero_iff imm).trans (high_eq_zero_iff imm)
    simp [Instr.reserved, Instr.opcode, hpush]
  | _ => simp [Instr.reserved, Instr.opcode]

theorem decodeFields_error_iff (op : Byte) (imm : Half) : (∃ e, decodeFields op imm = .error e) ↔
    op ∉ opcodes
      ∨ (op ∈ [0x00#8, 0x12#8, 0x15#8, 0x1B#8, 0x20#8, 0x21#8, 0x23#8, 0x25#8, 0x27#8, 0x28#8, 0x29#8] ∧ imm ≠ 0#16)
      ∨ (op = 0x10#8 ∧ 256 ≤ imm.toNat) := by
  by_cases hop : op ∈ opcodes
  · obtain ⟨j, rfl⟩ := mem_opcodes_iff.mp hop
    rw [← reserved_set_iff]
    obtain ⟨hzero, i, hi, -⟩ | ⟨hne, he⟩ := decodeFields_opcode j imm
    · simp [hop, hzero, hi]
    · simp [hne, he]
  · simp [hop, decodeFields_of_not_mem_opcodes hop]

namespace Machine

/-! ### The step of a command word (R60) -/

section Command
variable {s : State} {w : Word} {beats : List Byte} {rest : List Event}

theorem step_of_pending_legal {i : Instr} (hp : s.pending = .command w beats :: rest) (hd : decode w = .ok i) :
    step s = exec i (s.present w beats rest) := by
  simp only [step, hp, hd]

theorem step_of_pending_illegal {e : DecodeError} (hp : s.pending = .command w beats :: rest)
    (hd : decode w = .error e) : step s = illegalCommand (s.present w beats rest) := by
  simp only [step, hp, hd]

end Command

/-- Settles O5: the decoder tests `z`, then the opcode, then the reserved bits of `imm`; the step of an illegal word is a
response. -/
theorem illegalWordsAnswerBadop : Obligations.IllegalWordsAnswerBadop := by
  unfold Obligations.IllegalWordsAnswerBadop
  refine ⟨fun w => ?_, fun s w beats rest e hp hd => ?_⟩
  · by_cases hz : zField w = 0#8
    · rw [decode_of_z hz, decodeFields_error_iff, or_iff_right (not_not_intro hz)]
      rfl
    · have hdecode : decode w = .error (.reservedNotZero (zField w)) := if_neg hz
      exact iff_of_true ⟨_, hdecode⟩ (.inr (.inl hz))
  · exact ⟨_, step_of_pending_illegal hp hd, ⟨rfl, rfl⟩, unchanged_reply _ _⟩

theorem wordBeatCount_encode (i : Instr) : wordBeatCount (encode i) = i.beatCount := by
  rw [wordBeatCount, decodeOfEncode i]

/-- Settles O6: the step's case of a legal command word, which the word of `withFetchWord` is. -/
theorem stepRunsTheDecodedCommand : Obligations.StepRunsTheDecodedCommand := by
  unfold Obligations.StepRunsTheDecodedCommand
  refine ⟨fun s w beats rest i => step_of_pending_legal, fun s i => ?_⟩
  have hword : BitVec.ofNat 32 ((encode i).toNat % 2 ^ 32) = encode i := by
    rw [Nat.mod_eq_of_lt (encode i).isLt, BitVec.ofNat_toNat, BitVec.setWidth_eq]
  refine step_of_pending_legal (s := s.withFetchWord 32 (encode i).toNat) ?_ (decodeOfEncode i)
  rw [State.withFetchWord, hword, wordBeatCount_encode]

/-! ### The response to a command (R60, R63 to R66) -/

section Answers
variable {s u : State} {i : Instr} {r : Response} {body : Result}

/-- What the channel carries, and what the host has observed. -/
def SameChannel (s u : State) : Prop := u.trace = s.trace ∧ u.cmdWord = s.cmdWord ∧ u.inBeats = s.inBeats

theorem SameChannel.answered (h : SameChannel s u) (r : Response) : Answered s (u.reply r) r := by
  obtain ⟨htrace, hword, hbeats⟩ := h
  refine ⟨?_, rfl⟩
  rw [State.reply_trace, htrace, hword, hbeats]

/-- The responses a command may give (R66): the word alone; the beats READ and PEEKN copy out; RECV's frame, or none. -/
inductive Answer (s : State) : Instr → Response → Prop
  | alone {i : Instr} {st : Status} {val : Nat} (hi : i.opcode ∉ [0x14#8, 0x16#8, 0x21#8]) (hst : st ≠ .badop) :
      Answer s i (plain st val)
  | copy {i : Instr} {bs : List Byte} {k : Nat} (hi : i.opcode ∈ [0x14#8, 0x16#8]) (hlen : bs.length = k)
      (hk : k < 2 ^ 16) : Answer s i (withBeats .ok k bs)
  | noframe : Answer s .recv (withFrame .noframe 0 0#32 [])
  | frame {f : Frame} (hf : f ∈ s.fq) : Answer s .recv (withFrame .ok f.length f.ts f.payload)

/-- The body of a command's rule completes with one of the command's responses. -/
def Answers (s : State) (i : Instr) (body : Result) : Prop :=
  ∃ t r, body = .next t ∧ Answered s t r ∧ Answer s i r

theorem Answer.answers (h : Answer s i r) (hc : SameChannel s u) : Answers s i (.next (u.reply r)) :=
  ⟨_, r, rfl, hc.answered r, h⟩

theorem answers_ite {p : Prop} [Decidable p] {a b : Result} (ha : p → Answers s i a) (hb : ¬ p → Answers s i b) :
    Answers s i (if p then a else b) := by
  split
  · exact ha ‹_›
  · exact hb ‹_›

theorem answers_transact {n : Nat} (hn : s.inBeats.length = n) (h : Answers s i body) :
    Answers s i (s.transact n body) := by
  rwa [State.transact_eq hn]

theorem sameChannel_memWrite (s : State) (addr : Nat) (vs : List Byte) : SameChannel s (s.memWrite addr vs) := by
  rw [State.memWrite_eq]
  exact ⟨rfl, rfl, rfl⟩

theorem sameChannel_scan (s : State) (md : Mode) (fuel n : Nat) : SameChannel s (scan md fuel s n).1 := by
  obtain ⟨-, -, -, -, ⟨-, -, -, -, hword⟩, hbeats, htrace⟩ := scan_frame md fuel s n
  exact ⟨htrace, hword, hbeats⟩

/-- RUN answers OK or FULL (R140). -/
theorem scan_status_ne_badop (s : State) (md : Mode) (fuel n : Nat) : (scan md fuel s n).2.2 ≠ .badop := by
  induction fuel generalizing s n with
  | zero => exact nofun
  | succ fuel ih =>
    unfold scan
    split
    · exact nofun
    · exact ih _ _
    · split
      · exact nofun
      · exact ih _ _

/-- With the beats it takes every command completes with one of its responses. -/
theorem exec_answers (hb : s.inBeats.length = i.beatCount) : Answers s i (exec i s) := by
  have halone {u : State} {st : Status} {val : Nat} (hi : i.opcode ∉ [0x14#8, 0x16#8, 0x21#8]) (hst : st ≠ .badop)
      (hc : SameChannel s u) : Answers s i (u.respond st val) := (Answer.alone hi hst).answers hc
  have hsame : SameChannel s s := ⟨rfl, rfl, rfl⟩
  cases i with
  | nop | popn | clear | clrsof | clreof | setlen | clrlen | frames | bytes =>
    exact answers_transact hb (halone (by simp [Instr.opcode]) nofun hsame)
  | push | pop | peek | index | dmasync | setrp | resize | setsof | seteof =>
    exact answers_transact hb (answers_ite (fun _ => halone (by simp [Instr.opcode]) nofun hsame)
      fun _ => halone (by simp [Instr.opcode]) nofun hsame)
  | rdsr r =>
    refine answers_transact hb ?_
    split <;> exact halone (by simp [Instr.opcode]) nofun hsame
  | pushn len =>
    refine answers_transact hb (halone (by simp [Instr.opcode]) ?_ (sameChannel_memWrite s _ _))
    split <;> exact nofun
  | run => exact answers_transact hb (halone (by simp [Instr.opcode]) (scan_status_ne_badop s _ _ _)
      (sameChannel_scan s _ _ _))
  | read len | peekn len =>
    have hk : min len.toNat s.sz < 2 ^ 16 := (Nat.min_le_left _ _).trans_lt len.isLt
    exact answers_transact hb ((Answer.copy (by simp [Instr.opcode]) (State.memRead_length ..) hk).answers hsame)
  | recv =>
    refine answers_transact hb ?_
    split
    · exact Answer.noframe.answers hsame
    · next f rest hfq => exact (Answer.frame (f := f) (by simp [hfq])).answers hsame

theorem exec_malformed (hb : s.inBeats.length ≠ i.beatCount) : exec i s = .refused .malformedTransaction := by
  cases i <;> exact State.transact_malformed hb _

theorem beatCount_eq_zero (hi : i.opcode ∉ [0x11#8, 0x22#8, 0x24#8]) : i.beatCount = 0 := by
  cases i with
  | pushn | setsof | seteof => simp [Instr.opcode] at hi
  | _ => rfl

theorem Status.code_le_four {st : Status} (h : st ≠ .badop) : st.code.toNat ≤ 4 := by
  cases st with
  | badop => exact absurd rfl h
  | _ => decide

theorem Answer.word_eq (h : Answer s i r) : ∃ st val, r.word = responseWord st val ∧ st ≠ .badop := by
  cases h with
  | alone hi hst => exact ⟨_, _, rfl, hst⟩
  | copy | noframe | frame => exact ⟨_, _, rfl, nofun⟩

theorem Response.st_eq {st : Status} {val : Half} (h : r.word = responseWord st val) : r.st = st.code := by
  rw [Response.st, h, responseWord_st]

/-- A result below 2^16 is the response's `val` (R64). -/
theorem Response.val_toNat_eq {st : Status} {k : Nat} (h : r.word = responseWord st (BitVec.ofNat 16 k))
    (hk : k < 2 ^ 16) : r.val.toNat = k := by
  rw [Response.val, h, responseWord_val, BitVec.toNat_ofNat, Nat.mod_eq_of_lt hk]

end Answers

/-- Settles O8: the gate of every command compares the beats, and a command that passes it answers. -/
theorem beatCountDecidesWhetherACommandRuns : Obligations.BeatCountDecidesWhetherACommandRuns := by
  unfold Obligations.BeatCountDecidesWhetherACommandRuns
  refine fun i s => ⟨fun hb => ?_, exec_malformed, fun _ => ⟨rfl, rfl, rfl⟩, beatCount_eq_zero⟩
  obtain ⟨t, -, ht, ⟨-, hbeats⟩, -⟩ := exec_answers hb
  exact ⟨t, ht, hbeats⟩

/-- Settles O9: the kinds of response, with the payload lengths that the invariants bound. -/
theorem responseItems : Obligations.ResponseItems := by
  unfold Obligations.ResponseItems
  rintro i s ⟨⟨-, hcmax, -⟩, -, -, ⟨-, hpayload⟩, -⟩ hb
  obtain ⟨t, r, ht, hanswered, hanswer⟩ := exec_answers hb
  obtain ⟨st, val, hword, hst⟩ := hanswer.word_eq
  refine ⟨t, r, ht, hanswered, ?_, ?_, ?_⟩
  · rw [Response.st_eq hword]
    exact Status.code_le_four hst
  · rw [hword, responseWord_middle]
  · cases hanswer with
    | alone hi =>
      exact ⟨fun h => absurd (List.mem_append_left [0x21#8] h) hi, fun h => absurd (by simp [h]) hi, fun _ => ⟨rfl, rfl⟩⟩
    | copy hi hlen hk =>
      exact ⟨fun _ => ⟨rfl, hlen.trans (Response.val_toNat_eq rfl hk).symm⟩, fun h => by simp [h] at hi,
        fun h => absurd (List.mem_append_left [0x21#8] hi) h⟩
    | noframe => exact ⟨by simp [Instr.opcode], fun _ => ⟨rfl, rfl, fun _ => ⟨rfl, rfl⟩⟩, by simp [Instr.opcode]⟩
    | @frame f hf =>
      have hlen : f.length < 2 ^ 16 := ((hpayload f hf).trans hcmax).trans_lt (by decide)
      have hok := Response.st_eq (r := withFrame .ok f.length f.ts f.payload) rfl
      refine ⟨by simp [Instr.opcode], fun _ => ⟨rfl, (Response.val_toNat_eq rfl hlen).symm, fun h => ?_⟩,
        by simp [Instr.opcode]⟩
      exact absurd (hok.symm.trans h) (by decide)

end Machine
end Sys2Proof
end

section
/-! PROOFS of the family 40_ring_access.md: insertion (R80, R81), removal (R82 to R84), inspection (R85 to R87), the FIFO law
(R88). -/

namespace Sys2Proof.Machine

section RingAccess
variable {s u : State}

/-! ### The two sides of the ring (R89) -/

/-- Logical element 0 stands at the read cursor. -/
theorem RingInv.readAddr_zero (h : RingInv s) : s.readAddr 0 = s.rp := by
  obtain ⟨-, hrp, -⟩ := ringInv_iff.mp h
  exact hrp

/-- The write side begins where the content ends. -/
theorem RingInv.writeAddr_eq (h : RingInv s) (j : Nat) : s.writeAddr j = s.readAddr (s.sz + j) := by
  obtain ⟨-, -, hwp, -⟩ := ringInv_iff.mp h
  rw [State.writeAddr, State.readAddr, hwp, wrap_wrap_add, Nat.add_assoc]

@[simp] theorem State.content_reply (s : State) (r : Response) : (s.reply r).content = s.content := rfl
@[simp] theorem State.content_drawn (s : State) : s.drawn.content = s.content := rfl

theorem State.readAddr_dropFront (s : State) (k i : Nat) : (s.dropFront k).readAddr i = s.readAddr (k + i) := by
  simp only [State.readAddr, State.dropFront_cap, State.dropFront_rp, wrap_wrap_add, Nat.add_assoc]

/-- Dropping elements removes them from the front of the content (R8). -/
theorem State.content_dropFront (s : State) (k : Nat) : (s.dropFront k).content = s.content.drop k := by
  refine List.ext_getElem (by simp) fun i hi hi' => ?_
  rw [State.content_getElem, List.getElem_drop, State.content_getElem, State.readAddr_dropFront, State.dropFront_mem]

/-! ### Insertion (R80, R81, R89) -/

/-- The elements of a sequence written from the write cursor on and counted as valid: what PUSH and PUSHN do. -/
def State.inserted (s : State) (vs : List Byte) : State := (s.memWrite s.wp vs).advanceWrite vs.length

section Inserted
variable (s : State) (vs : List Byte)

@[simp] theorem State.memWrite_rp (addr : Nat) : (s.memWrite addr vs).rp = s.rp := by rw [State.memWrite_eq]
@[simp] theorem State.memWrite_wp (addr : Nat) : (s.memWrite addr vs).wp = s.wp := by rw [State.memWrite_eq]

@[simp] theorem State.inserted_mem : (s.inserted vs).mem = (s.memWrite s.wp vs).mem := rfl
@[simp] theorem State.inserted_cap : (s.inserted vs).cap = s.cap := s.memWrite_cap _ _
@[simp] theorem State.inserted_rp : (s.inserted vs).rp = s.rp := s.memWrite_rp _ _
@[simp] theorem State.inserted_wp : (s.inserted vs).wp = wrap s.cap (s.wp + vs.length : Nat) := by simp [State.inserted]
@[simp] theorem State.inserted_sz : (s.inserted vs).sz = s.sz + vs.length := by simp [State.inserted]

end Inserted

theorem RingInv.sz_add_length_le_cap {vs : List Byte} (h : RingInv s) (hvs : vs.length ≤ s.room) : s.sz + vs.length ≤ s.cap := by
  obtain ⟨hsz, -⟩ := h
  unfold State.room at hvs
  omega

theorem RingInv.inserted {vs : List Byte} (h : RingInv s) (hvs : vs.length ≤ s.room) : RingInv (s.inserted vs) := by
  have hw : RingInv (s.memWrite s.wp vs) := by rwa [State.memWrite_eq]
  exact hw.advanceWrite (by simpa [State.room] using hvs)

/-- The j-th inserted element stands at write offset j. -/
theorem RingInv.read_inserted {vs : List Byte} (h : RingInv s) (hvs : vs.length ≤ s.room) {j : Nat} (hj : j < vs.length) :
    (s.inserted vs).mem.read (s.writeAddr j) = some vs[j] :=
  s.memWrite_read _ vs (by have := h.sz_add_length_le_cap hvs; omega) j hj

theorem State.read_inserted_other {vs : List Byte} {a : Nat} (h : ∀ j < vs.length, a ≠ s.writeAddr j) :
    (s.inserted vs).mem.read a = s.mem.read a :=
  s.memWrite_read_other _ vs a h

/-- Insertion extends the content at its end: the cells it writes are none of the valid ones. -/
theorem RingInv.content_inserted {vs : List Byte} (h : RingInv s) (hvs : vs.length ≤ s.room) :
    (s.inserted vs).content = s.content ++ vs.map some := by
  have hcap := h.sz_add_length_le_cap hvs
  have haddr (i : Nat) : (s.inserted vs).readAddr i = s.readAddr i := by simp [State.readAddr]
  refine List.ext_getElem (by simp) fun i hi _ => ?_
  rw [State.content_length, State.inserted_sz] at hi
  rw [State.content_getElem, haddr]
  obtain hold | hnew := Nat.lt_or_ge i s.sz
  · rw [List.getElem_append_left (by simpa using hold), State.content_getElem]
    refine State.read_inserted_other fun j hj heq => ?_
    have : i = s.sz + j := wrap_inj (by omega) (by omega) (heq.trans (h.writeAddr_eq j))
    omega
  · obtain ⟨j, rfl⟩ := Nat.exists_eq_add_of_le hnew
    rw [← h.writeAddr_eq, h.read_inserted hvs (by omega)]
    simp

/-! ### What the commands answer, and the state they leave -/

section Equations
variable (hb : s.inBeats = [])
include hb

theorem exec_push_of_full (v : Byte) (h : s.sz = s.cap) : exec (.push v) s = .next (s.reply (plain .full 0)) :=
  (State.transact_nil hb _).trans (if_pos (beq_iff_eq.mpr h))

theorem exec_push_of_not_full (v : Byte) (h : s.sz ≠ s.cap) :
    exec (.push v) s = .next ((s.inserted [v]).reply (plain .ok 1)) :=
  (State.transact_nil hb _).trans (if_neg (mt beq_iff_eq.mp h))

theorem exec_pop_of_empty (h : s.sz = 0) : exec .pop s = .next (s.reply (plain .empty 0)) :=
  (State.transact_nil hb _).trans (if_pos (beq_iff_eq.mpr h))

theorem exec_pop_of_not_empty (h : s.sz ≠ 0) :
    exec .pop s = .next ((s.drawn.dropFront 1).reply (plain .ok (s.cell (s.readAddr 0)).toNat)) :=
  (State.transact_nil hb _).trans (if_neg (mt beq_iff_eq.mp h))

theorem exec_popn (n : Half) :
    exec (.popn n) s = .next ((s.dropFront (min n.toNat s.sz)).reply (plain .ok (min n.toNat s.sz))) :=
  State.transact_nil hb _

theorem exec_read (len : Half) :
    exec (.read len) s = .next ((s.drawn.dropFront (min len.toNat s.sz)).reply
      (withBeats .ok (min len.toNat s.sz) (s.memRead s.rp (min len.toNat s.sz)))) :=
  State.transact_nil hb _

theorem exec_peek_of_empty (h : s.sz = 0) : exec .peek s = .next (s.reply (plain .empty 0)) :=
  (State.transact_nil hb _).trans (if_pos (beq_iff_eq.mpr h))

theorem exec_peek_of_not_empty (h : s.sz ≠ 0) :
    exec .peek s = .next (s.drawn.reply (plain .ok (s.cell (s.readAddr 0)).toNat)) :=
  (State.transact_nil hb _).trans (if_neg (mt beq_iff_eq.mp h))

theorem exec_peekn (len : Half) :
    exec (.peekn len) s = .next (s.drawn.reply
      (withBeats .ok (min len.toNat s.sz) (s.memRead s.rp (min len.toNat s.sz)))) :=
  State.transact_nil hb _

theorem exec_index_of_lt {i : Half} (h : i.toNat < s.sz) :
    exec (.index i) s = .next (s.drawn.reply (plain .ok (s.cell (s.readAddr i.toNat)).toNat)) :=
  (State.transact_nil hb _).trans (if_pos h)

theorem exec_index_of_le {i : Half} (h : s.sz ≤ i.toNat) :
    exec (.index i) s = .next (s.reply (plain .ok s.params.emptyValue.toNat)) :=
  (State.transact_nil hb _).trans (if_neg h.not_gt)

end Equations

theorem exec_pushn {len : Half} {k : Nat} (hb : s.inBeats.length = len.toNat) (hk : k = min len.toNat s.room) :
    exec (.pushn len) s = .next ((s.inserted (s.inBeats.take k)).reply (plain (if k = len.toNat then .ok else .full) k)) := by
  have hlen : (s.inBeats.take k).length = k := by rw [List.length_take]; omega
  rw [State.inserted, hlen, hk]
  exact State.transact_eq hb _

/-! ### What the commands leave as it was -/

/-- At most storage, the cursors, the count and the count of reads differ. -/
def OnlyRing (s u : State) : Prop :=
  ∃ m rp wp sz draws, u = { s with mem := m, rp := rp, wp := wp, sz := sz, draws := draws }

theorem onlyRing_refl (s : State) : OnlyRing s s := ⟨_, _, _, _, _, rfl⟩

theorem onlyRing_drawn (s : State) : OnlyRing s s.drawn := ⟨_, _, _, _, _, rfl⟩

theorem onlyRing_dropFront (s : State) (k : Nat) : OnlyRing s (s.dropFront k) := ⟨_, _, _, _, _, rfl⟩

theorem onlyRing_drawn_dropFront (s : State) (k : Nat) : OnlyRing s (s.drawn.dropFront k) := ⟨_, _, _, _, _, rfl⟩

theorem onlyRing_inserted (s : State) (vs : List Byte) : OnlyRing s (s.inserted vs) := by
  rw [State.inserted, State.memWrite_eq]
  exact ⟨_, _, _, _, _, rfl⟩

theorem OnlyRing.sameChannel (h : OnlyRing s u) : SameChannel s u := by
  obtain ⟨m, rp, wp, sz, draws, rfl⟩ := h
  exact ⟨rfl, rfl, rfl⟩

theorem OnlyRing.frame (h : OnlyRing s u) (r : Response) :
    SameShape s (u.reply r) ∧ SameConfig s (u.reply r) ∧ SameFrames s (u.reply r) ∧ SameWorld s (u.reply r) := by
  obtain ⟨m, rp, wp, sz, draws, rfl⟩ := h
  exact ⟨⟨rfl, rfl⟩, ⟨rfl, rfl, rfl⟩, ⟨rfl, rfl⟩, ⟨rfl, rfl, rfl, rfl, rfl⟩, rfl, rfl⟩

/-! ### One PUSH after another (R81) -/

/-- Storage and the registers that say where the ring lies in it. -/
def State.ring (s : State) : Memory × Nat × Nat × Nat × Nat := (s.mem, s.cap, s.rp, s.wp, s.sz)

theorem ring_eq_iff : u.ring = s.ring ↔ u.mem = s.mem ∧ u.cap = s.cap ∧ SameCursors s u := by
  simp [State.ring]

/-- MemWrite needs of a state its storage and its capacity, and of the first address its position modulo the capacity. -/
theorem State.memWrite_mem_congr (hmem : u.mem = s.mem) (hcap : u.cap = s.cap) {a b : Nat}
    (hab : wrap s.cap (a : Nat) = wrap s.cap (b : Nat)) (vs : List Byte) :
    (u.memWrite a vs).mem = (s.memWrite b vs).mem := by
  induction vs generalizing s u a b with
  | nil => exact hmem
  | cons v vs ih =>
    rw [State.memWrite, State.memWrite, hcap, hab]
    refine ih (s := s.writeCell _ v) (u := u.writeCell _ v) ?_ hcap ?_
    · rw [State.writeCell_mem, State.writeCell_mem, hmem]
    · rw [State.writeCell_cap, ← wrap_wrap_add, hab, wrap_wrap_add]

theorem State.inserted_ring_congr (h : u.ring = s.ring) (vs : List Byte) : (u.inserted vs).ring = (s.inserted vs).ring := by
  obtain ⟨hmem, hcap, hrp, hwp, hsz⟩ := ring_eq_iff.mp h
  refine ring_eq_iff.mpr ⟨?_, by simp [hcap], by simp [hrp], by simp [hcap, hwp], by simp [hsz]⟩
  exact State.memWrite_mem_congr hmem hcap (by rw [hwp]) vs

theorem RingInv.inserted_nil_ring (h : RingInv s) : (s.inserted []).ring = s.ring := by
  obtain ⟨-, -, hwp, -⟩ := ringInv_iff.mp h
  refine ring_eq_iff.mpr ⟨rfl, rfl, rfl, ?_, rfl⟩
  rw [State.inserted_wp, List.length_nil, Nat.add_zero, hwp, wrap_wrap]

/-- A sequence is inserted from its first element on. -/
theorem State.inserted_cons_ring (s : State) (v : Byte) (vs : List Byte) :
    ((s.inserted [v]).inserted vs).ring = (s.inserted (v :: vs)).ring := by
  refine ring_eq_iff.mpr ⟨?_, by simp, by simp, ?_, ?_⟩
  · have haddr : wrap s.cap ((s.inserted [v]).wp : Nat) = wrap s.cap (s.wp + 1 : Nat) := wrap_wrap _ _
    exact State.memWrite_mem_congr (s := s.writeCell (wrap s.cap (s.wp : Nat)) v) (u := s.inserted [v]) rfl rfl haddr vs
  · simp only [State.inserted_wp, State.inserted_cap, wrap_wrap_add, List.length_cons, List.length_nil]
    rw [Nat.zero_add, Nat.add_assoc, Nat.add_comm 1]
  · simp only [State.inserted_sz, List.length_cons, List.length_nil]
    omega

/-- The first PUSH of a sequence leaves a ring like that of `u`; the others go on from there. -/
theorem pushEach_cons_ring {t : State} {b : Byte} {bs : List Byte} (ht : exec (.push b) { s with inBeats := [] } = .next t)
    (hrest : (pushEach bs t).ring = (t.inserted (bs.take t.room)).ring) (hu : t.ring = u.ring) :
    (pushEach (b :: bs) s).ring = (u.inserted (bs.take u.room)).ring := by
  have hroom : t.room = u.room := by
    obtain ⟨-, hcap, -, -, hsz⟩ := ring_eq_iff.mp hu
    rw [State.room, State.room, hcap, hsz]
  rw [pushEach, ht]
  exact hrest.trans (hroom ▸ State.inserted_ring_congr hu _)

/-- One PUSH after another inserts the elements there is room for; the PUSHes after them answer FULL. -/
theorem RingInv.pushEach_ring (h : RingInv s) (bs : List Byte) :
    (pushEach bs s).ring = (s.inserted (bs.take s.room)).ring := by
  induction bs generalizing s with
  | nil => rw [pushEach, List.take_nil, h.inserted_nil_ring]
  | cons b bs ih =>
    have ⟨hsz, _⟩ := h
    obtain hfull | hne := eq_or_ne s.sz s.cap
    · have hroom : s.room = 0 := by rw [State.room, hfull, Nat.sub_self]
      rw [pushEach_cons_ring (u := s) (exec_push_of_full rfl b hfull) (ih h) rfl, hroom, List.take_zero, List.take_zero]
    · have hroom : 1 ≤ s.room := by unfold State.room; omega
      have hpred : (s.inserted [b]).room = s.room - 1 := by simp [State.room, Nat.sub_sub]
      have hnext : RingInv (s.inserted [b]) := h.inserted hroom
      rw [pushEach_cons_ring (u := s.inserted [b]) (exec_push_of_not_full rfl b hne) (ih hnext) rfl, s.inserted_cons_ring,
        hpred, List.take_cons hroom]

end RingAccess

/-! ### The statements about insertion -/

/-- Settles O10: PUSH answers FULL from the state it found, or inserts one element. -/
theorem pushInsertsOrAnswersFull : Obligations.PushInsertsOrAnswersFull := by
  unfold Obligations.PushInsertsOrAnswersFull
  rintro s v ⟨-, hring, -⟩ hb
  refine ⟨fun hfull => ⟨_, exec_push_of_full hb v hfull, ⟨rfl, rfl⟩, unchanged_reply s _⟩, fun hne => ?_⟩
  have ⟨hsz, _, hpos, _⟩ := hring
  have hcap : 0 < s.cap := by omega
  have hroom : [v].length ≤ s.room := by simp only [List.length_singleton, State.room]; omega
  have hcell : s.writeAddr 0 = s.wp := wrap_nat_of_lt (hpos hcap).2
  have honly := onlyRing_inserted s [v]
  refine ⟨_, exec_push_of_not_full hb v hne, honly.sameChannel.answered _, hring.content_inserted hroom, ?_, fun a ha => ?_,
    ?_, s.inserted_sz [v], s.inserted_rp [v], ?_, ?_, honly.frame _⟩
  · exact hcell ▸ hring.read_inserted hroom (Nat.zero_lt_one)
  · exact Memory.read_write_other _ (ha.trans_eq hcell.symm : a ≠ s.writeAddr 0) v
  · exact wrap_nat_of_pos hcap _
  · simp [State.isEmpty]
  · simp [State.isFull]

/-- Settles O11: PUSHN inserts the beats there is room for, and so does one PUSH after another. -/
theorem pushnInsertsWhatFits : Obligations.PushnInsertsWhatFits := by
  unfold Obligations.PushnInsertsWhatFits
  rintro s len ⟨-, hring, -⟩ hb
  obtain ⟨k, hk⟩ : ∃ k, k = min len.toNat s.room := ⟨_, rfl⟩
  have hlen : (s.inBeats.take k).length = k := by rw [List.length_take]; omega
  have hroom : (s.inBeats.take k).length ≤ s.room := by omega
  have hcap := hring.sz_add_length_le_cap hroom
  have hcell {j : Nat} (hj : j < k) : (s.wp + j) % s.cap = s.writeAddr j := (wrap_nat_of_pos (by omega) _).symm
  have honly := onlyRing_inserted s (s.inBeats.take k)
  obtain ⟨hshape, hconfig, hframes, hworld⟩ := honly.frame (plain (if k = len.toNat then .ok else .full) k)
  refine ⟨_, k, hk, exec_pushn hb hk, honly.sameChannel.answered _, hring.content_inserted hroom, fun j hj => ?_,
    fun a ha => ?_, ?_, ?_, s.inserted_rp _, hshape, hconfig, hframes, hworld, ?_⟩
  · rw [hcell hj, State.reply_mem, hring.read_inserted hroom (by omega), List.getElem_take, List.getElem?_eq_getElem]
  · refine State.read_inserted_other fun j hj => ?_
    rw [hlen] at hj
    exact hcell hj ▸ ha j hj
  · rw [State.reply_wp, State.inserted_wp, hlen]
  · rw [State.reply_sz, State.inserted_sz, hlen]
  · have htake : s.inBeats.take k = s.inBeats.take s.room := by
      rw [hk, ← hb, Nat.min_comm, ← List.take_eq_take_min]
    obtain ⟨hmem, -, hrp, hwp, hsz⟩ := ring_eq_iff.mp (hring.pushEach_ring s.inBeats)
    rw [htake]
    exact ⟨hmem.symm, hwp.symm, hsz.symm, hrp.symm⟩

/-! ### The statements about removal -/

/-- Settles O12: POP answers EMPTY from the state it found, or reads element 0 and drops it. -/
theorem popRemovesTheOldest : Obligations.PopRemovesTheOldest := by
  unfold Obligations.PopRemovesTheOldest
  rintro s ⟨-, hring, -⟩ hb
  refine ⟨fun hempty => ⟨_, exec_pop_of_empty hb hempty, ⟨rfl, rfl⟩, unchanged_reply s _⟩, fun hne => ?_⟩
  have ⟨hsz, _⟩ := hring
  have hcap : 0 < s.cap := by omega
  refine ⟨_, _, exec_pop_of_not_empty hb hne, ⟨rfl, rfl⟩, fun x hx => ?_, ?_, fun _ => rfl, ?_, rfl, rfl, ?_, ?_,
    (onlyRing_drawn_dropFront s 1).frame _⟩
  · exact State.cell_of_read (hring.readAddr_zero ▸ hx)
  · rw [State.content_reply, State.content_dropFront, State.content_drawn, List.drop_one]
  · exact wrap_nat_of_pos hcap _
  · simp only [State.isFull, State.reply_sz, State.reply_cap, State.dropFront_sz, State.dropFront_cap, State.drawn_sz,
      State.drawn_cap, beq_eq_false_iff_ne]
    omega
  · simp only [State.isEmpty, State.reply_sz, State.dropFront_sz, State.drawn_sz, beq_iff_eq]
    omega

/-- Settles O13: POPN drops min(n, sz) elements; where that is all of them the read cursor meets `wp` (I3). -/
theorem popnDiscardsUpToN : Obligations.PopnDiscardsUpToN := by
  unfold Obligations.PopnDiscardsUpToN
  rintro s n ⟨-, hring, -⟩ hb
  have ⟨_, hwp, _⟩ := hring
  refine ⟨_, _, rfl, exec_popn hb n, ⟨rfl, rfl⟩, s.content_dropFront _, fun _ => rfl, rfl, rfl, rfl, fun hn => ?_,
    (onlyRing_dropFront s _).frame _⟩
  rw [Nat.min_eq_right hn]
  exact ⟨Nat.sub_self _, hwp.symm⟩

/-- Settles O14: READ reads the first min(len, sz) elements and drops them. -/
theorem readCopiesOutAndRemoves : Obligations.ReadCopiesOutAndRemoves := by
  unfold Obligations.ReadCopiesOutAndRemoves
  intro s len _ hb
  exact ⟨_, _, _, rfl, exec_read hb len, ⟨rfl, rfl⟩, s.memRead_agrees (Nat.min_le_right _ _), s.drawn.content_dropFront _,
    fun _ => rfl, rfl, rfl, rfl, (onlyRing_drawn_dropFront s _).frame _⟩

/-! ### The statements about inspection -/

/-- Settles O15: PEEK answers EMPTY, or reads element 0. -/
theorem peekShowsTheOldest : Obligations.PeekShowsTheOldest := by
  unfold Obligations.PeekShowsTheOldest
  rintro s ⟨-, hring, -⟩ hb
  refine ⟨fun hempty => ⟨_, exec_peek_of_empty hb hempty, ⟨rfl, rfl⟩, unchanged_reply s _⟩, fun hne => ?_⟩
  refine ⟨_, _, exec_peek_of_not_empty hb hne, ⟨rfl, rfl⟩, fun x hx => ?_, unchanged_drawn_reply s _⟩
  exact State.cell_of_read (hring.readAddr_zero ▸ hx)

/-- Bytes that agree with a content of specified elements are those elements. -/
theorem eq_map_some_of_agrees {bs : List Byte} {c : List (Option Byte)} (h : Agrees bs c) (hc : none ∉ c) :
    c = bs.map some := by
  induction h with
  | nil => rfl
  | @cons b o bs c hbo _ ih =>
    obtain ⟨ho, hc'⟩ := not_or.mp (mt List.mem_cons.mpr hc)
    obtain ⟨x, rfl⟩ := Option.ne_none_iff_exists'.mp (Ne.symm ho)
    rw [List.map_cons, ← ih hc', hbo x rfl]

/-- Settles O16: PEEKN reads what READ reads, and specified elements read the same twice. -/
theorem peeknCopiesWithoutRemoving : Obligations.PeeknCopiesWithoutRemoving := by
  unfold Obligations.PeeknCopiesWithoutRemoving
  intro s len _ hb
  have hagrees := s.memRead_agrees (Nat.min_le_right len.toNat s.sz)
  refine ⟨_, _, _, rfl, exec_peekn hb len, ⟨rfl, rfl⟩, hagrees, unchanged_drawn_reply s _, fun hc => ?_⟩
  have hbeats : s.drawn.memRead s.rp (min len.toNat s.sz) = s.memRead s.rp (min len.toNat s.sz) := by
    have hagain : Agrees _ (s.content.take (min len.toNat s.sz)) := s.drawn.memRead_agrees (Nat.min_le_right _ _)
    exact List.map_injective_iff.mpr (Option.some_injective _)
      ((eq_map_some_of_agrees hagain hc).symm.trans (eq_map_some_of_agrees hagrees hc))
  exact ⟨_, exec_read rfl len, by rw [← hbeats]; rfl, rfl⟩

/-- Settles O17: INDEX reads element i, or answers the sentinel at and beyond the size. -/
theorem indexShowsALogicalElement : Obligations.IndexShowsALogicalElement := by
  unfold Obligations.IndexShowsALogicalElement
  rintro s i ⟨-, ⟨hsz, -⟩, -⟩ hb
  refine ⟨fun hi => ?_, fun hi => ⟨_, exec_index_of_le hb hi, ⟨rfl, rfl⟩, unchanged_reply s _⟩⟩
  have haddr : s.readAddr i.toNat = (s.rp + i.toNat) % s.cap := wrap_nat_of_pos (by omega) _
  refine ⟨_, _, exec_index_of_lt hb hi, ⟨rfl, rfl⟩, fun x hx => ?_, unchanged_drawn_reply s _⟩
  exact State.cell_of_read (haddr ▸ hx)

/-! ### The FIFO law (R88) -/

/-- A content becomes `c'` when the bytes `a` go in at its end and the first `r` elements leave it. -/
def Flows (c : List (Option Byte)) (a : List Byte) (r : Nat) (c' : List (Option Byte)) : Prop :=
  r ≤ c.length + a.length ∧ c' = (c ++ a.map some).drop r

theorem flows_refl (c : List (Option Byte)) : Flows c [] 0 c := ⟨Nat.zero_le _, by simp⟩

theorem Flows.length {c c' : List (Option Byte)} {a : List Byte} {r : Nat} (h : Flows c a r c') :
    c'.length = c.length + a.length - r := by
  obtain ⟨-, rfl⟩ := h
  simp

/-- What two commands let in and out, one after the other. -/
theorem Flows.trans {c c' c'' : List (Option Byte)} {a a' : List Byte} {r r' : Nat} (h : Flows c a r c')
    (h' : Flows c' a' r' c'') : Flows c (a ++ a') (r + r') c'' := by
  obtain ⟨hr, rfl⟩ := h
  obtain ⟨hr', rfl⟩ := h'
  simp only [List.length_drop, List.length_append, List.length_map] at hr'
  refine ⟨by rw [List.length_append]; omega, ?_⟩
  have hle : r ≤ (c ++ a.map some).length := by simpa using hr
  rw [List.map_append, ← List.append_assoc, ← List.drop_drop, List.drop_append_of_le_length hle]

/-- The elements that leave in two commands are those that leave in the first, then those that leave in the second. -/
theorem Flows.take_add {c c' : List (Option Byte)} {a : List Byte} {r : Nat} (h : Flows c a r c') (a' : List Byte) (r' : Nat) :
    (c ++ (a ++ a').map some).take (r + r') = (c ++ a.map some).take r ++ (c' ++ a'.map some).take r' := by
  obtain ⟨hr, rfl⟩ := h
  have hle : r ≤ (c ++ a.map some).length := by simpa using hr
  rw [List.map_append, ← List.append_assoc, List.take_add, List.take_append_of_le_length hle,
    List.drop_append_of_le_length hle]

section Passes
variable {s u : State} {i : Instr} {r : Response}

/-- A command that answered `r` let in, let out and returned what `r` tells, and left `u`. -/
def Passes (s : State) (i : Instr) (r : Response) (u : State) : Prop :=
  Flows s.content (accepted i s.inBeats r) (removed i r) u.content ∧
    (i.opcode ≠ 0x13#8 → Agrees (returned i r) ((s.content ++ (accepted i s.inBeats r).map some).take (removed i r)))

/-- A command that removes nothing passes what it inserts. -/
theorem passes_of_insertion {vs : List Byte} (ha : accepted i s.inBeats r = vs) (hr : removed i r = 0)
    (hout : returned i r = []) (hu : u.content = s.content ++ vs.map some) : Passes s i r u := by
  rw [Passes, ha, hr, hout, List.take_zero]
  exact ⟨⟨Nat.zero_le _, hu⟩, fun _ => .nil⟩

theorem passes_of_inspection (ha : accepted i s.inBeats r = []) (hr : removed i r = 0) (hout : returned i r = [])
    (hu : u.content = s.content) : Passes s i r u :=
  passes_of_insertion ha hr hout (by simpa using hu)

/-- A command that inserts nothing passes the elements it drops. -/
theorem passes_of_removal {k : Nat} (ha : accepted i s.inBeats r = []) (hr : removed i r = k) (hk : k ≤ s.sz)
    (hu : u.content = s.content.drop k) (hout : i.opcode ≠ 0x13#8 → Agrees (returned i r) (s.content.take k)) :
    Passes s i r u := by
  rw [Passes, ha, hr, List.map_nil, List.append_nil]
  exact ⟨⟨by simpa using hk, by simpa using hu⟩, hout⟩

@[simp] theorem plain_st (st : Status) (val : Nat) : (plain st val).st = st.code := Response.st_eq rfl

theorem plain_val_toNat {st : Status} {val : Nat} (h : val < 2 ^ 16) : (plain st val).val.toNat = val :=
  Response.val_toNat_eq rfl h

/-- An element given as result value is read back from it (R64). -/
theorem plain_val_element (st : Status) (v : Byte) : (plain st v.toNat).val.setWidth 8 = v := by
  rw [Response.val, plain, responseWord_val]
  simp

/-- Every command of the access family answers, changes the ring alone, and passes what its response tells. -/
theorem exec_passes (hs : Inv s) (hi : Access i = true) (hb : s.inBeats.length = i.beatCount) :
    ∃ u r, exec i s = .next (u.reply r) ∧ OnlyRing s u ∧ Passes s i r u := by
  obtain ⟨-, hring, -⟩ := hs
  have hnil (h0 : i.beatCount = 0) : s.inBeats = [] := List.eq_nil_of_length_eq_zero (hb.trans h0)
  have hval (n : Half) (m : Nat) : min n.toNat m < 2 ^ 16 := (Nat.min_le_left _ _).trans_lt n.isLt
  have hkept (k : Nat) : (s.drawn.dropFront k).content = s.content.drop k := s.drawn.content_dropFront k
  cases i with
  | push v =>
    obtain hfull | hne := eq_or_ne s.sz s.cap
    · exact ⟨_, _, exec_push_of_full (hnil rfl) v hfull, onlyRing_refl s,
        passes_of_inspection (by simp [accepted, Status.code]) rfl rfl rfl⟩
    · have hroom : [v].length ≤ s.room := by
        obtain ⟨hsz, -⟩ := hring
        simp only [List.length_singleton, State.room]
        omega
      exact ⟨_, _, exec_push_of_not_full (hnil rfl) v hne, onlyRing_inserted s _,
        passes_of_insertion (by simp [accepted]) rfl rfl (hring.content_inserted hroom)⟩
  | pushn len =>
    have hroom : (s.inBeats.take (min len.toNat s.room)).length ≤ s.room :=
      (List.length_take_le _ _).trans (Nat.min_le_right _ _)
    exact ⟨_, _, exec_pushn hb rfl, onlyRing_inserted s _,
      passes_of_insertion (by rw [accepted, plain_val_toNat (hval _ _)]) rfl rfl (hring.content_inserted hroom)⟩
  | pop =>
    obtain hempty | hne := Nat.eq_zero_or_pos s.sz
    · exact ⟨_, _, exec_pop_of_empty (hnil rfl) hempty, onlyRing_refl s,
        passes_of_inspection rfl (by simp [removed, Status.code]) (by simp [returned, Status.code]) rfl⟩
    · refine ⟨_, _, exec_pop_of_not_empty (hnil rfl) hne.ne', onlyRing_drawn_dropFront s 1,
        passes_of_removal rfl (by simp [removed]) hne (hkept 1) fun _ => ?_⟩
      rw [returned, plain_st, if_pos rfl, plain_val_element]
      exact s.memRead_agrees hne
  | popn n =>
    exact ⟨_, _, exec_popn (hnil rfl) n, onlyRing_dropFront s _,
      passes_of_removal rfl (plain_val_toNat (hval _ _)) (Nat.min_le_right _ _) (s.content_dropFront _) fun h => absurd rfl h⟩
  | read len =>
    exact ⟨_, _, exec_read (hnil rfl) len, onlyRing_drawn_dropFront s _,
      passes_of_removal rfl (Response.val_toNat_eq rfl (hval _ _)) (Nat.min_le_right _ _) (hkept _)
        fun _ => s.memRead_agrees (Nat.min_le_right _ _)⟩
  | peek =>
    obtain hempty | hne := eq_or_ne s.sz 0
    · exact ⟨_, _, exec_peek_of_empty (hnil rfl) hempty, onlyRing_refl s,
        passes_of_inspection rfl rfl rfl rfl⟩
    · exact ⟨_, _, exec_peek_of_not_empty (hnil rfl) hne, onlyRing_drawn s,
        passes_of_inspection rfl rfl rfl rfl⟩
  | peekn len =>
    exact ⟨_, _, exec_peekn (hnil rfl) len, onlyRing_drawn s, passes_of_inspection rfl rfl rfl rfl⟩
  | index k =>
    obtain hlt | hle := Nat.lt_or_ge k.toNat s.sz
    · exact ⟨_, _, exec_index_of_lt (hnil rfl) hlt, onlyRing_drawn s,
        passes_of_inspection rfl rfl rfl rfl⟩
    · exact ⟨_, _, exec_index_of_le (hnil rfl) hle, onlyRing_refl s,
        passes_of_inspection rfl rfl rfl rfl⟩
  | _ => exact absurd hi (by simp [Access])

end Passes

/-- Every command keeps the invariants (R16). -/
theorem exec_inv {s t : State} {i : Instr} (hs : Inv s) (h : exec i s = .next t) : Inv t := by
  obtain ⟨u, r, hu, rfl⟩ := exec_responds i s t h
  exact hu.inv hs

theorem run_succ_of_step {s t : State} (h : step s = .next t) (k : Nat) : core.run (k + 1) s = core.run k t := by
  have hcore : core.step s = .next t := h
  simp only [Host.Core.run, hcore]

/-- A sequence of commands let in, let out and returned what its responses tell, and left `t`. -/
def PassesAll (s : State) (cs : List (Instr × List Byte)) (rs : List Response) (t : State) : Prop :=
  Flows s.content (List.zipWith (fun c r => accepted c.1 c.2 r) cs rs).flatten
    (List.zipWith (fun c r => removed c.1 r) cs rs).sum t.content ∧
  ((∀ c ∈ cs, c.1.opcode ≠ 0x13#8) → Agrees (List.zipWith (fun c r => returned c.1 r) cs rs).flatten
    ((s.content ++ (List.zipWith (fun c r => accepted c.1 c.2 r) cs rs).flatten.map some).take
      (List.zipWith (fun c r => removed c.1 r) cs rs).sum))

theorem passesAll_cons {s u t : State} {i : Instr} {r : Response} {cs : List (Instr × List Byte)} {rs : List Response}
    (h : Passes s i r u) (h' : PassesAll (u.reply r) cs rs t) : PassesAll s ((i, s.inBeats) :: cs) (r :: rs) t := by
  obtain ⟨hflow, hout⟩ := h
  obtain ⟨hflow', hout'⟩ := h'
  refine ⟨hflow.trans hflow', fun hno => ?_⟩
  obtain ⟨hhead, htail⟩ := List.forall_mem_cons.mp hno
  simp only [List.zipWith_cons_cons, List.flatten_cons, List.sum_cons]
  rw [hflow.take_add]
  exact List.rel_append (hout hhead) (hout' htail)

/-- The machine runs a sequence of the access family to its end and passes what the responses tell. -/
theorem run_commands {cs : List (Instr × List Byte)} {rest : List Event} {s : State} (hs : Inv s)
    (hcs : ∀ c ∈ cs, Access c.1 = true ∧ c.1.WellFormedWith c.2) (hp : s.pending = commands cs ++ rest) :
    ∃ (t : State) (rs : List Response), rs.length = cs.length ∧ core.run cs.length s = .next t ∧ t.pending = rest
      ∧ t.trace = s.trace ++ transactions cs rs ∧ PassesAll s cs rs t := by
  induction cs generalizing s with
  | nil => exact ⟨s, [], rfl, rfl, hp, (List.append_nil _).symm, flows_refl _, fun _ => .nil⟩
  | cons c cs ih =>
    obtain ⟨⟨haccess, hbeats⟩, htail⟩ := List.forall_mem_cons.mp hcs
    have hs' : Inv (s.present (encode c.1) c.2 (commands cs ++ rest)) := hs
    obtain ⟨u, r, hu, honly, hpasses⟩ := exec_passes hs' haccess hbeats
    have hstep := (step_of_pending_legal hp (decodeOfEncode c.1)).trans hu
    obtain ⟨-, -, -, ⟨-, -, -, hpending, -⟩, -⟩ := honly.frame r
    obtain ⟨htrace, -⟩ := honly.sameChannel.answered r
    obtain ⟨t, rs, hlen, hrun, hrest, htrace', hall⟩ := ih (exec_inv hs' hu) htail hpending
    refine ⟨t, r :: rs, by simp [hlen], (run_succ_of_step hstep _).trans hrun, hrest, ?_, passesAll_cons hpasses hall⟩
    rw [htrace', htrace, List.append_assoc]
    rfl

/-- Settles O18: each command passes what its response tells, and so does a sequence. -/
theorem fifoLaw : Obligations.FifoLaw := by
  unfold Obligations.FifoLaw
  intro cs rest s hs hcs hp
  obtain ⟨t, rs, hlen, hrun, hrest, htrace, hflow, hout⟩ := run_commands hs hcs hp
  have hsz := hflow.length
  have ⟨hle, hcontent⟩ := hflow
  rw [State.content_length] at hle
  rw [State.content_length, State.content_length] at hsz
  exact ⟨t, rs, hlen, hrun, hrest, htrace, hle, hcontent, hsz, hout⟩

end Sys2Proof.Machine
end

section
/-! PROOFS of the family 41_dma_reconciliation.md: the reconciliation (R100 to R102), SETRP (R103), coherence with the DMA agent
(R104 to R106). -/

namespace Sys2Proof.Machine

/-! ### The arithmetic of the reconciliation (R100, R101) -/

section Arithmetic
variable {cap ldc rem : Nat}

theorem dmaDiff_of_le (h : (ldc : Int) ≤ cap - rem) : dmaDiff cap ldc rem = cap - rem - ldc := by
  rw [dmaDiff, if_neg h.not_gt]

/-- The counter passed 0 since the last reconciliation (R100, step 2). -/
theorem dmaDiff_of_lt (h : (cap : Int) - rem < ldc) : dmaDiff cap ldc rem = cap - (ldc - (cap - rem)) := by
  rw [dmaDiff, if_pos h]
  omega

theorem dmaDiff_le (cap ldc rem : Nat) : dmaDiff cap ldc rem ≤ cap := by
  obtain h | h := lt_or_ge ((cap : Int) - rem) ldc
  · rw [dmaDiff_of_lt h]; omega
  · rw [dmaDiff_of_le h]; omega

/-- A whole round is counted only from the start of the transfer to its end (R106). -/
theorem dmaDiff_eq_cap_iff : dmaDiff cap ldc rem = cap ↔ ldc = 0 ∧ rem = 0 := by
  obtain h | h := lt_or_ge ((cap : Int) - rem) ldc
  · rw [dmaDiff_of_lt h]; omega
  · rw [dmaDiff_of_le h]; omega

/-- Modulo the capacity the difference is the way from the last position to the present one (R105). -/
theorem dmaDiff_modEq (cap ldc rem : Nat) : dmaDiff cap ldc rem ≡ cap - rem - ldc [ZMOD cap] := by
  obtain h | h := lt_or_ge ((cap : Int) - rem) ldc
  · rw [dmaDiff_of_lt h, Int.modEq_iff_dvd]
    exact ⟨-1, by ring⟩
  · rw [dmaDiff_of_le h]

theorem wrap_eq_wrap_iff (h : 0 < cap) {a b : Int} : wrap cap a = wrap cap b ↔ a ≡ b [ZMOD cap] := by
  rw [Int.ModEq, ← wrap_cast h, ← wrap_cast h, Nat.cast_inj]

/-- At capacity 0, too, `wrap` is the residue of the position 0. -/
theorem wrap_cast_of_zero {a : Int} (h : cap = 0 → a = 0) : (wrap cap a : Int) = a % cap := by
  obtain hc | hc := Nat.eq_zero_or_pos cap
  · rw [h hc, hc]; rfl
  · exact wrap_cast hc a

end Arithmetic

/-- Settles O20: the bounds hold in each of the two forms of the difference. -/
theorem reconciliationBounds : Obligations.ReconciliationBounds := by
  unfold Obligations.ReconciliationBounds
  intro cap sz ldc rem hsz hldc hrem
  obtain h | h := lt_or_ge ((cap : Int) - rem) ldc
  · have hd := dmaDiff_of_lt h
    refine ⟨cap - rem, ldc - cap, _, _, rfl, (if_pos h).symm, rfl, by omega, rfl, ?_⟩
    omega
  · have hd := dmaDiff_of_le h
    refine ⟨cap - rem, ldc, _, _, rfl, (if_neg h.not_gt).symm, rfl, hd, rfl, ?_⟩
    omega

/-! ### DMASYNC (R100, R102) -/

section Dmasync
variable {s u : State} {rem : Half}

theorem exec_dmasync_of_gt (hb : s.inBeats = []) (h : s.cap < rem.toNat) :
    exec (.dmasync rem) s = .next (s.reply (plain .ignored 0)) :=
  (State.transact_nil hb _).trans (if_pos h)

/-- DMASYNC with a remaining count in range reconciles by the model's difference, a natural number (R100, R101). -/
theorem RingInv.exec_dmasync (h : RingInv s) (hb : s.inBeats = []) (hrem : rem.toNat ≤ s.cap) :
    ∃ d : Nat, (d : Int) = dmaDiff s.cap s.ldc rem.toNat
      ∧ exec (.dmasync rem) s = .next ((s.reconcile rem.toNat d).reply (plain .ok d)) := by
  obtain ⟨-, -, -, -, hldc, -⟩ := h
  have hd : ((dmaDiff s.cap s.ldc rem.toNat).toNat : Int) = dmaDiff s.cap s.ldc rem.toNat :=
    Int.toNat_of_nonneg (dmaDiff_nonneg hldc hrem)
  refine ⟨_, hd, ?_⟩
  rw [hd]
  exact (State.transact_nil hb _).trans (if_neg hrem.not_gt)

/-- The reconciliation writes the ring's registers and `ldc` alone (R100). -/
theorem State.reconcile_frame (s : State) (rem : Nat) (d : Int) (r : Response) :
    SameStore s ((s.reconcile rem d).reply r) ∧ SameConfig s ((s.reconcile rem d).reply r)
      ∧ SameFrames s ((s.reconcile rem d).reply r) ∧ SameWorld s ((s.reconcile rem d).reply r) :=
  ⟨fun _ => rfl, ⟨rfl, rfl, rfl⟩, ⟨rfl, rfl⟩, ⟨rfl, rfl, rfl, rfl, rfl⟩, rfl, rfl⟩

/-- The content is read off storage and the registers that say where the ring lies in it. -/
theorem State.content_congr (h : u.ring = s.ring) : u.content = s.content := by
  obtain ⟨hmem, hcap, hrp, -, hsz⟩ := ring_eq_iff.mp h
  simp only [State.content, State.readAddr, hmem, hcap, hrp, hsz]

/-- d elements go in at the write side, then those above the capacity leave at the read side (R100, R102). -/
theorem RingInv.reconcile_ring (h : RingInv s) (rem d : Nat) :
    (s.reconcile rem d).ring = ((s.advanceWrite d).dropFront (s.sz + d - s.cap)).ring := by
  obtain ⟨-, hrp, -⟩ := ringInv_iff.mp h
  obtain hover | hfits := lt_or_ge (s.cap : Int) (s.sz + d)
  · obtain ⟨hrp', hsz'⟩ := State.reconcile_of_overrun (rem := rem) hover
    have hexcess : (s.rp : Int) + (s.sz + d - s.cap) = (s.rp + (s.sz + d - s.cap) : Nat) := by omega
    refine ring_eq_iff.mpr ⟨rfl, rfl, by rw [hrp', hexcess]; rfl, rfl, ?_⟩
    rw [hsz', State.dropFront_sz, State.advanceWrite_sz]
    omega
  · obtain ⟨hrp', hsz'⟩ := State.reconcile_of_fits (rem := rem) hfits
    have hexcess : s.sz + d - s.cap = 0 := by omega
    rw [hexcess]
    exact ring_eq_iff.mpr ⟨rfl, rfl, hrp'.trans hrp.symm, rfl, by rw [hsz']; rfl⟩

/-- Elements counted at the write side extend the content by the cells they stand in (R89). -/
theorem RingInv.content_advanceWrite (h : RingInv s) (d : Nat) :
    (s.advanceWrite d).content = s.content ++ (List.range d).map fun j => s.mem.read (s.writeAddr j) := by
  have hread : (s.advanceWrite d).content = (List.range (s.sz + d)).map fun i => s.mem.read (s.readAddr i) := rfl
  rw [hread, List.range_add, List.map_append, List.map_map]
  exact congrArg (s.content ++ ·) (List.map_congr_left fun j _ => by rw [h.writeAddr_eq]; rfl)

/-- R102: the last of the old content followed by the d cells from the write cursor on. -/
theorem RingInv.content_reconcile (h : RingInv s) (rem d : Nat) :
    (s.reconcile rem d).content
      = (s.content ++ (List.range d).map fun j => s.mem.read (s.writeAddr j)).drop (s.sz + d - s.cap) := by
  rw [State.content_congr (h.reconcile_ring rem d), State.content_dropFront, h.content_advanceWrite]

/-- In a Full ring the cursors meet (R102). -/
theorem RingInv.rp_eq_wp_of_full (h : RingInv s) (hfull : s.sz = s.cap) : s.rp = s.wp := by
  obtain ⟨-, hrp, hwp, -⟩ := ringInv_iff.mp h
  have hround := wrap_add_mul s.cap (s.rp : Nat) 1
  rw [hwp, hfull, Nat.cast_add, ← mul_one (s.cap : Int), hround, hrp]

end Dmasync

/-- Settles O19: the seven steps are the model's `reconcile`, by the model's difference. -/
theorem dmasyncReconciles : Obligations.DmasyncReconciles := by
  unfold Obligations.DmasyncReconciles
  rintro s rem ⟨-, hring, -⟩ hb
  refine ⟨fun hgt => ⟨_, exec_dmasync_of_gt hb hgt, ⟨rfl, rfl⟩, unchanged_reply s _⟩, fun hrem => ?_⟩
  obtain ⟨d, hd, hexec⟩ := hring.exec_dmasync hb hrem
  have hle := dmaDiff_le s.cap s.ldc rem.toNat
  obtain ⟨hsz, -, -, hzero, -⟩ := hring
  obtain ⟨hstore, hconfig, hframes, hworld⟩ := s.reconcile_frame rem.toNat d (plain .ok d)
  refine ⟨_, _, _, d, _, rfl, rfl, hd, rfl, by omega, by omega, hexec, ⟨rfl, rfl⟩, ?wp, fun hover => ?overrun,
    fun hfits => ?fits, Nat.cast_sub hrem, rfl, hstore, hconfig, hframes, hworld⟩
  case wp => exact wrap_cast_of_zero fun hc => by have := hzero hc; omega
  case overrun =>
    obtain ⟨hrp', hsz'⟩ := State.reconcile_of_overrun (rem := rem.toNat) hover
    exact ⟨(congrArg Nat.cast hrp').trans (wrap_cast (by omega) _), hsz', beq_iff_eq.mpr hsz'⟩
  case fits =>
    obtain ⟨hrp', hsz'⟩ := State.reconcile_of_fits (rem := rem.toNat) hfits
    exact ⟨hrp', (congrArg Nat.cast hsz').trans (Int.toNat_of_nonneg (by omega))⟩

/-- Settles O21: the reconciliation inserts d elements and drops those above the capacity. -/
theorem overrunDiscardsTheOldest : Obligations.OverrunDiscardsTheOldest := by
  unfold Obligations.OverrunDiscardsTheOldest
  rintro s rem ⟨-, hring, -⟩ hb hrem
  obtain ⟨d, hd, hexec⟩ := hring.exec_dmasync hb hrem
  refine ⟨_, d, hd, hexec, ⟨rfl, rfl⟩, hring.content_reconcile rem.toNat d, fun hover => ?_⟩
  obtain ⟨-, hfull⟩ := State.reconcile_of_overrun (s := s) (rem := rem.toNat) (d := d) (by omega)
  have hmeet := (hring.reconcile (rem := rem.toNat) (Int.natCast_nonneg d)).rp_eq_wp_of_full hfull
  exact ⟨hfull, hmeet, beq_iff_eq.mpr hfull, s.reconcile_frame rem.toNat d (plain .ok d)⟩

/-! ### SETRP (R103) -/

section Setrp
variable {s : State} {pos : Half}

theorem exec_setrp_of_le (hb : s.inBeats = []) (h : s.cap ≤ pos.toNat) :
    exec (.setrp pos) s = .next (s.reply (plain .ignored 0)) :=
  (State.transact_nil hb _).trans (if_pos h)

theorem exec_setrp_of_lt (hb : s.inBeats = []) (h : pos.toNat < s.cap) :
    exec (.setrp pos) s
      = .next (State.reply { s with rp := pos.toNat, sz := wrap s.cap ((s.wp : Int) - pos.toNat) }
          (plain .ok (wrap s.cap ((s.wp : Int) - pos.toNat)))) :=
  (State.transact_nil hb _).trans (if_neg h.not_ge)

end Setrp

/-- Settles O22: the recomputed size is a residue modulo cap, so below cap. -/
theorem setrpRelocatesTheReadCursor : Obligations.SetrpRelocatesTheReadCursor := by
  unfold Obligations.SetrpRelocatesTheReadCursor
  intro s pos _ hb
  refine ⟨fun hle => ⟨_, exec_setrp_of_le hb hle, ⟨rfl, rfl⟩, unchanged_reply s _⟩, fun hlt => ?_⟩
  have hcap : 0 < s.cap := by omega
  refine ⟨_, exec_setrp_of_lt hb hlt, ⟨rfl, rfl⟩, rfl, wrap_cast hcap _, rfl, ?full, fun hpos => ?empty, fun _ => rfl,
    ⟨rfl, rfl⟩, ⟨rfl, rfl, rfl⟩, ⟨rfl, rfl⟩, ⟨rfl, rfl, rfl, rfl, rfl⟩, rfl, rfl⟩
  case full => exact beq_eq_false_iff_ne.mpr (wrap_lt hcap _).ne
  case empty =>
    rw [State.reply_sz, hpos, Int.sub_self]
    exact wrap_zero s.cap

/-! ### Coherence with the DMA agent (R104) -/

section Coherence
variable {s t : State} {u : Nat}

/-- The counter's position, as a congruence (R104). -/
theorem Coherent.position (h : Coherent s u) : (s.cap : Int) - s.dmaRem ≡ s.ldc + u [ZMOD s.cap] := by
  obtain ⟨hcap, hlen, -, hpos, -⟩ := h
  rwa [hlen, wrap_eq_wrap_iff hcap, Nat.cast_add] at hpos

/-- Coherence speaks of the capacity, the write cursor, the shadow counter and the agent's variables alone. -/
theorem Coherent.congr (h : Coherent s u) (hcap : t.cap = s.cap) (hwp : t.wp = s.wp) (hldc : t.ldc = s.ldc)
    (hlen : t.dmaLen = s.dmaLen) (hrem : t.dmaRem = s.dmaRem) : Coherent t u := by
  rwa [Coherent, hcap, hwp, hldc, hlen, hrem]

/-- A transfer of length cap starts coherent on a ring whose positions are 0 (R104). -/
theorem coherent_start (hcap : 0 < s.cap) (hwp : s.wp = 0) (hldc : wrap s.cap (s.ldc : Nat) = 0) :
    Coherent { s with dmaLen := s.cap, dmaRem := s.cap } 0 := by
  refine ⟨hcap, rfl, hwp.trans hldc.symm, ?_, fun _ hrem => absurd hrem hcap.ne'⟩
  rw [Int.sub_self]
  exact (wrap_zero s.cap).trans hldc.symm

/-- A write step adds one outstanding byte, whatever it writes (R45, R104). -/
theorem Coherent.write (h : Coherent s u) (hrem : 1 ≤ s.dmaRem) (m : Memory) :
    Coherent { s with mem := m, dmaRem := s.dmaRem - 1 } (u + 1) := by
  have hpos := h.position
  obtain ⟨hcap, hlen, hwp, -, -⟩ := h
  have hnext : (s.cap : Int) - (s.dmaRem - 1 : Nat) ≡ (s.ldc + (u + 1) : Nat) [ZMOD s.cap] := by
    have hadd := hpos.add_right 1
    rwa [show (s.cap : Int) - s.dmaRem + 1 = s.cap - (s.dmaRem - 1 : Nat) by omega, add_assoc] at hadd
  refine ⟨hcap, hlen, hwp, (wrap_eq_wrap_iff hcap).mpr (hlen ▸ hnext), fun hldc hlast => ?_⟩
  have hdvd : (s.cap : Int) ∣ (u + 1 : Nat) := by
    have hzero : s.dmaRem - 1 = 0 := hlast
    rw [hldc, hzero, Nat.zero_add] at hnext
    simpa using (Int.modEq_iff_dvd.mp hnext).add (dvd_refl (s.cap : Int))
  exact Nat.le_of_dvd (Nat.succ_pos u) (Int.natCast_dvd_natCast.mp hdvd)

/-- A reload brings the counter from 0 back to the length, the same position (R46, R104). -/
theorem Coherent.reload (h : Coherent s u) (hrem : s.dmaRem = 0) : Coherent { s with dmaRem := s.dmaLen } u := by
  obtain ⟨hcap, hlen, hwp, hpos, -⟩ := h
  refine ⟨hcap, hlen, hwp, Eq.trans ?_ hpos, fun _ hzero => absurd (hlen ▸ hzero) hcap.ne'⟩
  rw [hrem, hlen, wrap_eq_wrap_iff hcap, Int.modEq_iff_dvd]
  exact ⟨1, by push_cast; ring⟩

/-- A DMASYNC with a value the counter had v bytes ago leaves v outstanding (R104). -/
theorem Coherent.dmasync {v : Nat} {rem : Half} (hring : RingInv s) (h : Coherent s u) (hb : s.inBeats = [])
    (hv : v ≤ u) (hrem : rem.toNat ≤ s.cap) (hvalue : (s.cap : Int) - rem.toNat ≡ s.ldc + (u - v : Nat) [ZMOD s.cap])
    (hlast : rem.toNat = s.cap → s.dmaRem = 0 → s.cap ≤ v) :
    ∃ d : Nat, (d : Int) = dmaDiff s.cap s.ldc rem.toNat
      ∧ exec (.dmasync rem) s = .next ((s.reconcile rem.toNat d).reply (plain .ok d))
      ∧ Coherent ((s.reconcile rem.toNat d).reply (plain .ok d)) v := by
  obtain ⟨d, hd, hexec⟩ := hring.exec_dmasync hb hrem
  have hpos := h.position
  obtain ⟨hcap, hlen, hwp, -, -⟩ := h
  have hcast : ((s.cap - rem.toNat : Nat) : Int) = s.cap - rem.toNat := Nat.cast_sub hrem
  refine ⟨d, hd, hexec, hcap, hlen, ?cursor, ?counter, fun hldc => hlast ?_⟩
  case cursor =>
    have hmoved : (s.ldc : Int) + d ≡ s.cap - rem.toNat [ZMOD s.cap] := by
      simpa [hd] using (dmaDiff_modEq s.cap s.ldc rem.toNat).add_left (s.ldc : Int)
    rw [State.reply_wp, State.reconcile_wp, hwp, wrap_wrap_add_int, State.reply_cap, State.reconcile_cap, State.reply_ldc,
      State.reconcile_ldc, hcast]
    exact (wrap_eq_wrap_iff hcap).mpr hmoved
  case counter =>
    have hpresent : (s.cap : Int) - s.dmaRem ≡ s.cap - rem.toNat + v [ZMOD s.cap] := by
      have hsum := hvalue.add_right (v : Int)
      rw [add_assoc, ← Nat.cast_add, Nat.sub_add_cancel hv] at hsum
      exact hpos.trans hsum.symm
    rw [← hcast, ← Nat.cast_add] at hpresent
    rw [State.reply_dmaLen, State.reconcile_dmaLen, hlen]
    exact (wrap_eq_wrap_iff hcap).mpr hpresent
  · have hldc' : s.cap - rem.toNat = 0 := hldc
    omega

theorem Performs.dma_eq {i : Instr} (h : Performs s i t) : t.dmaLen = s.dmaLen ∧ t.dmaRem = s.dmaRem := by
  cases h with
  | pushn => rw [State.memWrite_eq]; exact ⟨rfl, rfl⟩
  | run =>
    obtain ⟨-, -, -, -, ⟨-, hlen, hrem, -⟩, -⟩ := scan_frame s.mode (s.sz + 1) s 0
    exact ⟨hlen, hrem⟩
  | _ => exact ⟨rfl, rfl⟩

/-- A command that moves neither the write cursor nor the shadow counter nor the capacity keeps coherence (R104). -/
theorem Performs.coherent {i : Instr} (h : Performs s i t) (hi : i.opcode ∉ [0x10#8, 0x11#8, 0x18#8, 0x1A#8, 0x1B#8])
    (hc : Coherent s u) : Coherent t u := by
  have hcap : t.cap = s.cap := h.cap_eq_or.resolve_right fun ⟨n, hn, _⟩ => hi (by simp [hn, Instr.opcode])
  have hldc : t.ldc = s.ldc := h.ldc_eq_or.resolve_right fun hmem => hi (by
    simp only [List.mem_cons, List.not_mem_nil, or_false] at hmem ⊢
    tauto)
  obtain ⟨hlen, hrem⟩ := h.dma_eq
  exact hc.congr hcap (h.wp_eq_or.resolve_right hi) hldc hlen hrem

end Coherence

/-- Settles O23: each clause is one of the steps above. -/
theorem coherenceIsKept : Obligations.CoherenceIsKept := by
  unfold Obligations.CoherenceIsKept
  refine ⟨?start, ?write, ?reload, ?dmasync, ?command⟩
  case start =>
    rintro s ⟨-, ⟨-, -, -, -, -, hcmax⟩, -⟩ hcap hwp hldc
    exact ⟨_, dmaStart_of_le hcmax, coherent_start hcap hwp hldc⟩
  case write =>
    rintro s u b ⟨-, -, -, -, -, hdma, -⟩ hc hrem
    exact ⟨_, dmaWrite_of_enabled hrem (hdma.dmaIndex_lt_cmax hrem), hc.write hrem _⟩
  case reload =>
    intro s u _ hc hrem
    have ⟨hcap, hlen, _⟩ := hc
    exact ⟨_, dmaReload_of_enabled hrem (by omega), hc.reload hrem⟩
  case dmasync =>
    rintro s u v rem ⟨-, hring, -⟩ hc hb hv hrem hvalue hlast
    have ⟨hcap, hlen, _⟩ := hc
    rw [hlen, wrap_eq_wrap_iff hcap, Nat.cast_add] at hvalue
    obtain ⟨d, -, hexec, hcoherent⟩ := hc.dmasync hring hb hv (hlen ▸ hrem) hvalue hlast
    exact ⟨_, hexec, hcoherent⟩
  case command =>
    intro i s u _ hc hb hi
    obtain ⟨t, -, ht, -⟩ := exec_answers hb
    obtain ⟨w, r, hw, rfl⟩ := exec_responds i s t ht
    exact ⟨_, ht, hw.coherent hi hc⟩

/-! ### Counting the outstanding bytes (R105, R106) -/

section Counting
variable {s : State} {u : Nat}

/-- The host can pass every value of the counter to DMASYNC (R44, R62). -/
theorem Inv.dmaRem_toNat (h : Inv s) : (BitVec.ofNat 16 s.dmaRem).toNat = s.dmaRem := by
  obtain ⟨⟨-, hcmax, -⟩, -, -, -, -, ⟨hrem, hlen⟩, -⟩ := h
  rw [BitVec.toNat_ofNat, Nat.mod_eq_of_lt (by omega)]

theorem Coherent.dmaDiff_modEq (h : Coherent s u) : dmaDiff s.cap s.ldc s.dmaRem ≡ u [ZMOD s.cap] := by
  have hway := h.position.sub_right (s.ldc : Int)
  rw [add_sub_cancel_left] at hway
  exact (Machine.dmaDiff_modEq _ _ _).trans hway

/-- Below the capacity the difference is the number of outstanding bytes: a whole round takes cap writes (R105). -/
theorem Coherent.dmaDiff_eq_of_lt {d : Nat} (h : Coherent s u) (hd : (d : Int) = dmaDiff s.cap s.ldc s.dmaRem) (hu : u < s.cap) :
    d = u := by
  have hmod := h.dmaDiff_modEq
  obtain ⟨-, -, -, -, hround⟩ := h
  have hle := dmaDiff_le s.cap s.ldc s.dmaRem
  have hne : dmaDiff s.cap s.ldc s.dmaRem ≠ s.cap := fun heq => by
    obtain ⟨hldc, hrem⟩ := dmaDiff_eq_cap_iff.mp heq
    exact hu.not_ge (hround hldc hrem)
  rw [← hd] at hmod
  exact Nat.ModEq.eq_of_lt_of_lt (Int.natCast_modEq_iff.mp hmod) (by omega) hu

/-- From cap outstanding bytes the difference is a whole round or nothing (R106). -/
theorem Coherent.dmaDiff_eq_of_round {d : Nat} (h : Coherent s s.cap) (hd : (d : Int) = dmaDiff s.cap s.ldc s.dmaRem) :
    d = if s.ldc = 0 ∧ s.dmaRem = 0 then s.cap else 0 := by
  have hmod := h.dmaDiff_modEq
  have hle := dmaDiff_le s.cap s.ldc s.dmaRem
  split
  · next hround => exact Nat.cast_inj.mp (hd.trans (dmaDiff_eq_cap_iff.mpr hround))
  · next hround =>
    have hne : dmaDiff s.cap s.ldc s.dmaRem ≠ s.cap := mt dmaDiff_eq_cap_iff.mp hround
    rw [← hd] at hmod
    have hdvd : s.cap ∣ d := (Int.natCast_modEq_iff.mp hmod).dvd_iff (dvd_refl _) |>.mpr (dvd_refl _)
    exact Nat.eq_zero_of_dvd_of_lt hdvd (by omega)

end Counting

/-- Settles O24: the difference is congruent to u and at most cap, which leaves one value, or two where u = cap. -/
theorem coherentDmasyncCountsTheBytes : Obligations.CoherentDmasyncCountsTheBytes := by
  unfold Obligations.CoherentDmasyncCountsTheBytes
  intro s u hs hc hb
  have hvalue := hs.dmaRem_toNat
  have hposition := hc.position
  have hmod := hc.dmaDiff_modEq
  have hle := dmaDiff_le s.cap s.ldc s.dmaRem
  have ⟨hcap, hlen, _⟩ := hc
  obtain ⟨-, hring, -, -, -, ⟨hrem, -⟩, -⟩ := hs
  rw [hlen] at hrem
  obtain ⟨d, hd, hexec, hcoherent⟩ := hc.dmasync (v := 0) (rem := BitVec.ofNat 16 s.dmaRem) hring hb (Nat.zero_le u)
    (by rwa [hvalue]) (by rwa [hvalue, Nat.sub_zero]) (by rw [hvalue]; omega)
  rw [hvalue] at hd hexec hcoherent
  rw [← hd] at hmod
  refine ⟨_, d, hexec, ⟨rfl, rfl⟩, hcoherent, by omega, Int.natCast_modEq_iff.mp hmod, hc.dmaDiff_eq_of_lt hd, ?round,
    fun hu hroom => ?content⟩
  case round =>
    rintro rfl
    exact hc.dmaDiff_eq_of_round hd
  case content =>
    have ⟨hsz, _⟩ := hring
    obtain rfl := hc.dmaDiff_eq_of_lt hd hu
    rw [State.content_reply, hring.content_reconcile, Nat.sub_eq_zero_of_le (by omega), List.drop_zero]

/-! ### Bytes received along a run (R45, R50, R104, R105) -/

section Receiving
variable {s t v : State} {u : Nat}

theorem State.memWrite_append (s : State) (addr : Nat) (vs ws : List Byte) :
    s.memWrite addr (vs ++ ws) = (s.memWrite addr vs).memWrite (addr + vs.length) ws := by
  induction vs generalizing s addr with
  | nil => rfl
  | cons v vs ih =>
    rw [List.cons_append, State.memWrite, State.memWrite, ih, List.length_cons, Nat.add_assoc, Nat.add_comm 1]

/-- Bytes written from the write cursor on, where there is room, are no part of the content (R50). -/
theorem RingInv.content_memWrite (h : RingInv s) {bs : List Byte} (hbs : bs.length ≤ s.room) :
    (s.memWrite s.wp bs).content = s.content := by
  have hwritten : RingInv (s.memWrite s.wp bs) := by rwa [State.memWrite_eq]
  have heq := hwritten.content_advanceWrite bs.length
  exact (List.append_inj (heq.symm.trans (h.content_inserted hbs)) (by simp)).1

/-- With u bytes outstanding the agent's next cell is write offset u (R104). -/
theorem Coherent.dmaIndex_eq (h : Coherent s u) (hrem : 1 ≤ s.dmaRem) (hle : s.dmaRem ≤ s.dmaLen) :
    s.dmaIndex = wrap s.cap (s.wp + u : Nat) := by
  obtain ⟨hcap, hlen, hwp, hpos, -⟩ := h
  have hcast : (s.dmaLen : Int) - s.dmaRem = (s.dmaIndex : Nat) := by unfold State.dmaIndex; omega
  have hlt : s.dmaIndex < s.cap := by unfold State.dmaIndex; omega
  rw [hwp, wrap_wrap_add, ← hpos, hcast, wrap_nat_of_lt hlt]

/-- The agent received the bytes of a sequence where u were outstanding: they stand from write offset u on, and nothing but
storage, the counter and what is pending has changed. -/
def Received (s : State) (u : Nat) (bs : List Byte) (t : State) : Prop :=
  Inv t ∧ Coherent t (u + bs.length) ∧ t.mem = (s.memWrite (s.wp + u) bs).mem
    ∧ t = { s with mem := t.mem, pending := t.pending, dmaRem := t.dmaRem }

theorem Received.trans {as bs : List Byte} (h : Received s u as t) (h' : Received t (u + as.length) bs v) :
    Received s u (as ++ bs) v := by
  obtain ⟨-, -, hmem, hframe⟩ := h
  obtain ⟨hinv, hcoherent, hmem', hframe'⟩ := h'
  have hcap : t.cap = s.cap := by rw [hframe]
  have hwp : t.wp = s.wp := by rw [hframe]
  refine ⟨hinv, by rwa [List.length_append, ← Nat.add_assoc], ?_, ?_⟩
  · rw [hmem', State.memWrite_append]
    exact State.memWrite_mem_congr hmem (by simp [hcap]) (by rw [hwp, Nat.add_assoc]) bs
  · rw [hframe', hframe]

/-- A reload step receives nothing. -/
theorem step_dmaReload_received {rest : List Event} (hs : Inv s) (hc : Coherent s u) (hrem : s.dmaRem = 0)
    (hp : s.pending = .dmaReload :: rest) :
    ∃ t, step s = .next t ∧ t.pending = rest ∧ t.dmaLen = s.dmaLen ∧ t.dmaRem = s.dmaLen ∧ Received s u [] t := by
  have ⟨hcap, hlen, _⟩ := hc
  have hstep := (step_of_pending_dmaReload hp).trans (dmaReload_of_enabled hrem (by simp only [State.takeEvent]; omega))
  exact ⟨_, hstep, rfl, rfl, rfl, (step_steps hstep).inv hs, hc.reload hrem, rfl, rfl⟩

/-- A write step receives its byte. -/
theorem step_dmaWrite_received {b : Byte} {rest : List Event} (hs : Inv s) (hc : Coherent s u) (hrem : 1 ≤ s.dmaRem)
    (hp : s.pending = .dmaWrite b :: rest) :
    ∃ t, step s = .next t ∧ t.pending = rest ∧ t.dmaLen = s.dmaLen ∧ t.dmaRem = s.dmaRem - 1 ∧ Received s u [b] t := by
  have ⟨_, _, _, _, _, hdma, _⟩ := hs
  have ⟨hle, _⟩ := hdma
  have hcell := hc.dmaIndex_eq hrem hle
  have hstep := (step_of_pending_dmaWrite hp).trans (dmaWrite_of_enabled hrem (hdma.dmaIndex_lt_cmax hrem))
  refine ⟨_, hstep, rfl, rfl, rfl, (step_steps hstep).inv hs, hc.write hrem (s.mem.write s.dmaIndex b), ?_, rfl⟩
  exact congrArg (s.mem.write · b) hcell

theorem dmaBurst_zero {len : Nat} (h : 1 ≤ len) (b : Byte) (bs : List Byte) :
    dmaBurst len 0 (b :: bs) = .dmaReload :: dmaBurst len len (b :: bs) := by
  obtain ⟨n, rfl⟩ := Nat.exists_eq_add_of_le' h
  rfl

theorem dmaBurst_pos {len rem : Nat} (h : 1 ≤ rem) (b : Byte) (bs : List Byte) :
    dmaBurst len rem (b :: bs) = .dmaWrite b :: dmaBurst len (rem - 1) bs := by
  obtain ⟨n, rfl⟩ := Nat.exists_eq_add_of_le' h
  rfl

/-- The machine runs the agent's steps of a burst to their end, and the agent has received its bytes. -/
def Receives (s : State) (u : Nat) (bs : List Byte) (rest : List Event) : Prop :=
  ∃ t, core.run (dmaBurst s.dmaLen s.dmaRem bs).length s = .next t ∧ t.pending = rest ∧ Received s u bs t

/-- One event of the burst, then the burst as it goes on from there. -/
theorem receives_of_step {as bs : List Byte} {e : Event} {rest : List Event} (hstep : step s = .next t)
    (hburst : dmaBurst s.dmaLen s.dmaRem (as ++ bs) = e :: dmaBurst t.dmaLen t.dmaRem bs) (h : Received s u as t)
    (h' : Receives t (u + as.length) bs rest) : Receives s u (as ++ bs) rest := by
  obtain ⟨v, hrun, hrest, hreceived⟩ := h'
  rw [Receives, hburst]
  exact ⟨v, (run_succ_of_step hstep _).trans hrun, hrest, h.trans hreceived⟩

theorem receives_of_pending {bs : List Byte} {rest : List Event} (hs : Inv s) (hc : Coherent s u)
    (hp : s.pending = dmaBurst s.dmaLen s.dmaRem bs ++ rest) : Receives s u bs rest := by
  induction bs generalizing s u with
  | nil => exact ⟨s, rfl, hp, hs, hc, rfl, rfl⟩
  | cons b bs ih =>
    have hwrite {s : State} {u : Nat} (hs : Inv s) (hc : Coherent s u) (hrem : 1 ≤ s.dmaRem)
        (hp : s.pending = dmaBurst s.dmaLen s.dmaRem (b :: bs) ++ rest) : Receives s u (b :: bs) rest := by
      rw [dmaBurst_pos hrem] at hp
      obtain ⟨t, hstep, hpending, hlen, hrem', hreceived⟩ := step_dmaWrite_received hs hc hrem hp
      have ⟨hinv, hcoherent, _⟩ := hreceived
      refine receives_of_step (e := .dmaWrite b) hstep ?_ hreceived (ih hinv hcoherent ?_)
      · rw [hlen, hrem']; exact dmaBurst_pos hrem b bs
      · rw [hpending, hlen, hrem']; rfl
    obtain hrem | hrem := Nat.eq_zero_or_pos s.dmaRem
    · have ⟨hcap, hlen, _⟩ := hc
      have hpos : 1 ≤ s.dmaLen := by omega
      rw [hrem, dmaBurst_zero hpos] at hp
      obtain ⟨t, hstep, hpending, hlen', hrem', hreceived⟩ := step_dmaReload_received hs hc hrem hp
      have ⟨hinv, hcoherent, _⟩ := hreceived
      refine receives_of_step (as := []) (e := .dmaReload) hstep ?_ hreceived (hwrite hinv hcoherent (hrem'.symm ▸ hpos) ?_)
      · rw [hrem, hlen', hrem']; exact dmaBurst_zero hpos b bs
      · rw [hpending, hlen', hrem']; rfl
    · exact hwrite hs hc hrem hp

end Receiving

/-- Settles O25: the burst writes its bytes from the write cursor on, beyond the content, and DMASYNC counts them. -/
theorem receivedBytesBecomeTheContent : Obligations.ReceivedBytesBecomeTheContent := by
  unfold Obligations.ReceivedBytesBecomeTheContent
  intro bs rest s hs hc hb hlt hroom hp
  obtain ⟨v, hrun, hrest, hinv, hcoherent, hmem, hframe⟩ := receives_of_pending hs hc hp
  rw [Nat.zero_add] at hcoherent
  have hsame : SameRegisters s v := hframe ▸ sameRegisters_of_agent s _ _ _ _
  have ⟨⟨hrp, hwp, hsz⟩, ⟨hcap, _⟩, _, _, _, hbeats, _⟩ := hsame
  obtain ⟨-, hring, -⟩ := hs
  have hcontent : v.content = s.content :=
    (State.content_congr (ring_eq_iff.mpr ⟨hmem, by simp [hcap], by simp [hrp], by simp [hwp], by simp [hsz]⟩)).trans
      (hring.content_memWrite hroom)
  obtain ⟨t, d, hexec, hanswered, hdone, -, -, hcount, -, hgain⟩ :=
    coherentDmasyncCountsTheBytes v bs.length hinv hcoherent (hbeats.trans hb)
  obtain rfl := hcount (by rwa [hcap])
  refine ⟨v, hrun, hrest, hcontent, hsame, hcoherent, t, hexec, hanswered, ?_, hdone⟩
  rw [hgain (by rwa [hcap]) (by rwa [hcap, hsz]), hcontent]
  refine congrArg (s.content ++ ·) (List.ext_getElem (by simp) fun j hj _ => ?_)
  have hj' : j < bs.length := by simpa using hj
  have hread := s.memWrite_read s.wp bs hlt.le j hj'
  simpa [State.writeAddr, hmem, hcap, hwp] using hread

end Sys2Proof.Machine
end

section
/-! PROOFS of the family 42_management.md: RESIZE (R120), CLEAR (R121), NOP (R122), RDSR with the status registers (R123,
R26). -/

namespace Sys2Proof.Machine

/-! ### What the commands answer, and the state they leave -/

section Equations
variable {s : State} (hb : s.inBeats = [])
include hb

theorem exec_resize_of_gt {n : Half} (h : s.params.cmax < n.toNat) :
    exec (.resize n) s = .next (s.reply (plain .ignored s.cap)) :=
  (State.transact_nil hb _).trans (if_pos h)

theorem exec_resize_of_le {n : Half} (h : n.toNat ≤ s.params.cmax) :
    exec (.resize n) s = .next ((s.resized n.toNat).reply (plain .ok n.toNat)) :=
  (State.transact_nil hb _).trans (if_neg h.not_gt)

theorem exec_clear :
    exec .clear s = .next (State.reply { s with sz := 0, rp := 0, wp := 0, sofOpen := false } (plain .ok 0)) :=
  State.transact_nil hb _

theorem exec_nop : exec .nop s = .next (s.reply (plain .ok 0)) := State.transact_nil hb _

theorem exec_rdsr_of_some {r : Half} {v : Nat} (h : s.statusRegister r.toNat = some v) :
    exec (.rdsr r) s = .next (s.reply (plain .ok v)) := by
  rw [exec, execRdsr, State.transact_nil hb, h]
  rfl

theorem exec_rdsr_of_none {r : Half} (h : s.statusRegister r.toNat = none) :
    exec (.rdsr r) s = .next (s.reply (plain .ignored 0)) := by
  rw [exec, execRdsr, State.transact_nil hb, h]
  rfl

end Equations

/-! ### RESIZE (R120) -/

/-- The ring begins at cell 0 after RESIZE, and its k ≤ n elements do not wrap: they are the bytes RESIZE has kept. -/
theorem State.content_resized (s : State) (n : Nat) :
    (s.resized n).content = (s.memRead s.rp (min s.sz n)).map some := by
  refine List.ext_getElem (by simp) fun i hi _ => ?_
  rw [State.content_length, State.resized_sz] at hi
  have haddr : (s.resized n).readAddr i = i := by
    rw [State.readAddr, State.resized_cap, State.resized_rp, Nat.zero_add, wrap_nat_of_lt (by omega)]
  rw [State.content_getElem, haddr, State.resized_mem, Memory.read_ofBytes_zero, List.getElem_map,
    List.getElem?_eq_getElem]

/-- Settles O30: above CMAX the state stays; otherwise it is the model's `resized`, and `keep` is what it copied. -/
theorem resizeKeepsTheOldest : Obligations.ResizeKeepsTheOldest := by
  unfold Obligations.ResizeKeepsTheOldest
  intro s newcap _ hb
  refine ⟨fun hgt => ⟨_, exec_resize_of_gt hb hgt, ⟨rfl, rfl⟩, unchanged_reply s _⟩, fun hle => ?_⟩
  have hwp : wrap newcap.toNat (min s.sz newcap.toNat : Nat)
      = if 0 < newcap.toNat then min s.sz newcap.toNat % newcap.toNat else 0 := by
    rw [wrap_nat, ← ite_not]
    exact if_congr Nat.pos_iff_ne_zero.symm rfl rfl
  exact ⟨_, _, s.memRead s.rp (min s.sz newcap.toNat), rfl, exec_resize_of_le hb hle, ⟨rfl, rfl⟩,
    s.memRead_agrees (Nat.min_le_left _ _), fun a => Memory.read_ofBytes_zero a _, s.content_resized _, rfl, rfl, rfl, hwp,
    rfl, beq_iff_eq, ⟨rfl, rfl, rfl⟩, ⟨rfl, rfl⟩, ⟨rfl, rfl, rfl, rfl, rfl⟩, rfl, rfl⟩

/-! ### CLEAR and NOP (R121, R122) -/

/-- Settles O31: CLEAR writes three registers and the hidden bit; INDEX, POP and PEEK then find sz = 0. -/
theorem clearEmptiesTheRing : Obligations.ClearEmptiesTheRing := by
  unfold Obligations.ClearEmptiesTheRing
  intro s hb
  exact ⟨_, exec_clear hb, ⟨rfl, rfl⟩, rfl, rfl, rfl, rfl, rfl, beq_iff_eq.trans eq_comm, rfl, fun _ => rfl, ⟨rfl, rfl⟩,
    ⟨rfl, rfl, rfl⟩, ⟨⟨rfl, rfl, rfl, rfl, rfl⟩, rfl, rfl⟩,
    fun _ => ⟨_, exec_index_of_le rfl (Nat.zero_le _), rfl, rfl⟩,
    ⟨_, exec_pop_of_empty rfl rfl, rfl, rfl⟩, ⟨_, exec_peek_of_empty rfl rfl, rfl, rfl⟩⟩

/-- Settles O32: NOP is a response. -/
theorem nopChangesNothing : Obligations.NopChangesNothing := by
  unfold Obligations.NopChangesNothing
  exact fun s hb => ⟨_, exec_nop hb, ⟨rfl, rfl⟩, unchanged_reply s _⟩

/-! ### The status registers (R26) -/

section StatusRegisters
variable (s : State)

/-- The table of R26: the status registers 0 to 14, in order. -/
def State.registers : List Nat :=
  [s.statusWord.toNat, s.cap, s.sz, s.rp, s.wp, s.ldc, s.xlen.toNat, s.sof.length, s.eof.length, s.fq.length, s.params.cmax,
    s.params.dmaxlen, s.params.fqDepth, s.params.emptyValue.toNat, (s.fq.map fun f => f.payload.length).headD 0]

@[simp] theorem State.registers_length : s.registers.length = 15 := rfl

theorem State.headLen_eq : s.headLen = (s.fq.map fun f => f.payload.length).headD 0 := by
  unfold State.headLen
  split
  · next h => rw [h]; rfl
  · next h => rw [h]; rfl

theorem State.statusRegister_eq (r : Nat) : s.statusRegister r = s.registers[r]? :=
  match r with
  | 0 | 1 | 2 | 3 | 4 | 5 | 6 | 7 | 8 | 9 | 10 | 11 | 12 | 13 => rfl
  | 14 => congrArg some s.headLen_eq
  | _ + 15 => rfl

/-- STATUS is MODE below nine zero bits, then the five flags, each put below what stands so far. -/
theorem State.statusWord_eq : s.statusWord =
    (((((0#9 ++ s.mode.code).concat s.fqFull).concat s.fq.isEmpty).concat s.sofOpen).concat s.isFull).concat s.isEmpty :=
  rfl

/-- Bits 0 to 4 of STATUS. -/
theorem State.statusWord_flags :
    s.statusWord.getLsbD 0 = s.isEmpty ∧ s.statusWord.getLsbD 1 = s.isFull ∧ s.statusWord.getLsbD 2 = s.sofOpen
      ∧ s.statusWord.getLsbD 3 = s.fq.isEmpty ∧ s.statusWord.getLsbD 4 = s.fqFull := by
  rw [s.statusWord_eq]
  and_intros <;> simp only [BitVec.getLsbD_concat_succ, BitVec.getLsbD_concat_zero]

/-- STATUS above its five flags. -/
theorem State.statusWord_extract (start len : Nat) :
    s.statusWord.extractLsb' (start + 5) len = (0#9 ++ s.mode.code).extractLsb' start len := by
  unfold State.statusWord
  iterate 5 rw [BitVec.extractLsb'_append_eq_of_le (by omega)]
  rfl

theorem State.statusWord_mode : s.statusWord.extractLsb' 5 2 = s.mode.code :=
  (s.statusWord_extract 0 2).trans BitVec.extractLsb'_append_eq_right

theorem State.statusWord_reserved : s.statusWord.extractLsb' 7 9 = 0#9 :=
  (s.statusWord_extract 2 9).trans BitVec.extractLsb'_append_eq_left

/-- MODE by the configuration (R22, R26). -/
theorem State.mode_code :
    s.mode.code = if s.sof ≠ [] then 3#2 else if s.eof ≠ [] then 2#2 else if s.xlen ≠ 0#16 then 1#2 else 0#2 := by
  rw [modePriority s]
  simp only [apply_ite Mode.code]
  rfl

end StatusRegisters

/-- HEADLEN is the length of a queued payload, or 0. -/
theorem QueueInv.headLen_le_cmax {s : State} (h : QueueInv s) : s.headLen ≤ s.params.cmax := by
  obtain ⟨-, hpayload⟩ := h
  unfold State.headLen
  split
  · exact Nat.zero_le _
  · next hfq => exact hpayload _ (by simp [hfq])

/-- Each status register fits the 16 bits of `val` (R26, R64). -/
theorem Inv.register_lt {s : State} (h : Inv s) : ∀ v ∈ s.registers, v < 65536 := by
  obtain ⟨⟨-, hcmax, -, -, hdmaxlen, -, hdepth⟩, hring, ⟨hsof, heof⟩, hqueue, -⟩ := h
  obtain ⟨hrp, hwp⟩ := RingInv.cursors_le_cap hring
  obtain ⟨hsz, -, -, -, hldc, hcap⟩ := hring
  have hhead := hqueue.headLen_le_cmax
  rw [State.headLen_eq] at hhead
  obtain ⟨hfq, -⟩ := hqueue
  have hstatus := s.statusWord.isLt
  have hxlen := s.xlen.isLt
  have hempty := s.params.emptyValue.isLt
  intro v hv
  simp only [State.registers, List.mem_cons, List.not_mem_nil, or_false] at hv
  omega

/-! ### RDSR (R123) -/

/-- Settles O33: RDSR answers the register of R26's table where the table has one. -/
theorem rdsrReadsTheStatusRegisters : Obligations.RdsrReadsTheStatusRegisters := by
  unfold Obligations.RdsrReadsTheStatusRegisters
  intro s r hs hb
  constructor
  · intro hr
    have hnone : s.statusRegister r.toNat = none := by
      rw [State.statusRegister_eq]
      exact List.getElem?_eq_none hr
    exact ⟨_, exec_rdsr_of_none hb hnone, ⟨rfl, rfl⟩, unchanged_reply s _⟩
  · intro hr
    have hlt : r.toNat < s.registers.length := Nat.lt_succ_of_le hr
    have hsome := List.getElem?_eq_getElem hlt
    obtain ⟨hempty, hfull, hopen, hfqEmpty, hfqFull⟩ := s.statusWord_flags
    refine ⟨_, _, s.statusWord, exec_rdsr_of_some hb ((s.statusRegister_eq _).trans hsome), ⟨rfl, rfl⟩, unchanged_reply s _,
      hs.register_lt _ (List.getElem_mem hlt), hsome, ?_, ?_, hopen, ?_, ?_, s.statusWord_mode.trans s.mode_code,
      s.statusWord_reserved⟩
    · rw [hempty, State.isEmpty, beq_iff_eq]
    · rw [hfull, State.isFull, beq_iff_eq]
    · rw [hfqEmpty, List.isEmpty_iff]
    · rw [hfqFull, State.fqFull, beq_iff_eq]

end Sys2Proof.Machine
end

section
/-! PROOFS of the family 43_frame_config.md: the start sequence (SETSOF, CLRSOF: R130, R131), the end sequence (SETEOF, CLREOF:
R132, R133), the expected length (SETLEN, CLRLEN: R134, R135). -/

namespace Sys2Proof.Machine

section FrameConfig
variable {s : State} {len : Half}

/-! ### What the commands answer, and the state they leave -/

section Delimiters
variable (hb : s.inBeats.length = len.toNat)
include hb

theorem exec_setsof_of_gt (h : s.params.dmaxlen < len.toNat) :
    exec (.setsof len) s = .next (s.reply (plain .ignored 0)) :=
  (State.transact_eq hb _).trans (if_pos h)

theorem exec_setsof_of_le (h : len.toNat ≤ s.params.dmaxlen) :
    exec (.setsof len) s = .next ((s.setSof s.inBeats).reply (plain .ok len.toNat)) :=
  (State.transact_eq hb _).trans (if_neg h.not_gt)

theorem exec_seteof_of_gt (h : s.params.dmaxlen < len.toNat) :
    exec (.seteof len) s = .next (s.reply (plain .ignored 0)) :=
  (State.transact_eq hb _).trans (if_pos h)

theorem exec_seteof_of_le (h : len.toNat ≤ s.params.dmaxlen) :
    exec (.seteof len) s = .next ((s.setEof s.inBeats).reply (plain .ok len.toNat)) :=
  (State.transact_eq hb _).trans (if_neg h.not_gt)

end Delimiters

section NoBeats
variable (hb : s.inBeats = [])
include hb

theorem exec_clrsof : exec .clrsof s = .next ((s.setSof []).reply (plain .ok 0)) := State.transact_nil hb _

theorem exec_clreof : exec .clreof s = .next ((s.setEof []).reply (plain .ok 0)) := State.transact_nil hb _

theorem exec_setlen (len : Half) : exec (.setlen len) s = .next ((s.setXlen len).reply (plain .ok len.toNat)) :=
  State.transact_nil hb _

theorem exec_clrlen : exec .clrlen s = .next ((s.setXlen 0#16).reply (plain .ok 0)) := State.transact_nil hb _

end NoBeats

/-- An empty start sequence is within DMAXLEN, so SETSOF stores it as CLRSOF does (R130). -/
theorem exec_setsof_of_zero (hb : s.inBeats.length = len.toNat) (h : len.toNat = 0) :
    exec (.setsof len) s = exec .clrsof s := by
  have hnil : s.inBeats = [] := List.length_eq_zero_iff.mp (hb.trans h)
  rw [exec_setsof_of_le hb (h ▸ Nat.zero_le _), exec_clrsof hnil, hnil, h]

/-- An empty end sequence is within DMAXLEN, so SETEOF stores it as CLREOF does (R132). -/
theorem exec_seteof_of_zero (hb : s.inBeats.length = len.toNat) (h : len.toNat = 0) :
    exec (.seteof len) s = exec .clreof s := by
  have hnil : s.inBeats = [] := List.length_eq_zero_iff.mp (hb.trans h)
  rw [exec_seteof_of_le hb (h ▸ Nat.zero_le _), exec_clreof hnil, hnil, h]

/-! ### What the commands leave as it was -/

/-- A new start sequence leaves storage, the ring's registers and the environment as they were (R130, R131). -/
theorem State.setSof_frame (s : State) (bs : List Byte) (r : Response) :
    SameStore s ((s.setSof bs).reply r) ∧ SameCursors s ((s.setSof bs).reply r) ∧ SameShape s ((s.setSof bs).reply r)
      ∧ SameWorld s ((s.setSof bs).reply r) :=
  ⟨fun _ => rfl, ⟨rfl, rfl, rfl⟩, ⟨rfl, rfl⟩, ⟨rfl, rfl, rfl, rfl, rfl⟩, rfl, rfl⟩

/-- A new end sequence leaves also the hidden bit and the frame queue as they were (R132, R133). -/
theorem State.setEof_frame (s : State) (bs : List Byte) (r : Response) :
    SameFrames s ((s.setEof bs).reply r) ∧ SameStore s ((s.setEof bs).reply r) ∧ SameCursors s ((s.setEof bs).reply r)
      ∧ SameShape s ((s.setEof bs).reply r) ∧ SameWorld s ((s.setEof bs).reply r) :=
  ⟨⟨rfl, rfl⟩, fun _ => rfl, ⟨rfl, rfl, rfl⟩, ⟨rfl, rfl⟩, ⟨rfl, rfl, rfl, rfl, rfl⟩, rfl, rfl⟩

/-- A new expected length leaves what a new end sequence leaves (R134, R135). -/
theorem State.setXlen_frame (s : State) (n : Half) (r : Response) :
    SameFrames s ((s.setXlen n).reply r) ∧ SameStore s ((s.setXlen n).reply r) ∧ SameCursors s ((s.setXlen n).reply r)
      ∧ SameShape s ((s.setXlen n).reply r) ∧ SameWorld s ((s.setXlen n).reply r) :=
  ⟨⟨rfl, rfl⟩, fun _ => rfl, ⟨rfl, rfl, rfl⟩, ⟨rfl, rfl⟩, ⟨rfl, rfl, rfl, rfl, rfl⟩, rfl, rfl⟩

/-! ### The framing mode by what is configured (R22) -/

theorem State.mode_of_sof_ne_nil (h : s.sof ≠ []) : s.mode = .sof :=
  (modePriority s).trans (if_pos h)

theorem State.mode_of_sof_eq_nil (h : s.sof = []) :
    s.mode = if s.eof ≠ [] then .eof else if s.xlen ≠ 0#16 then .fixed else .none :=
  (modePriority s).trans (if_neg (not_not_intro h))

theorem State.mode_of_eof_ne_nil (h : s.eof ≠ []) : s.mode = if s.sof ≠ [] then .sof else .eof := by
  rw [modePriority s, if_pos h]

theorem State.mode_of_no_delimiter (hsof : s.sof = []) (heof : s.eof = []) :
    s.mode = if s.xlen = 0#16 then .none else .fixed := by
  rw [State.mode_of_sof_eq_nil hsof, if_neg (not_not_intro heof), ite_not]

/-- A command that brings a beat brings a sequence that is not empty. -/
theorem inBeats_ne_nil (hb : s.inBeats.length = len.toNat) (h : 0 < len.toNat) : s.inBeats ≠ [] :=
  List.length_pos_iff.mp (hb ▸ h)

end FrameConfig

/-! ### The statements -/

/-- Settles O34: the beats become the start sequence; one that is not empty decides the mode. -/
theorem setsofWritesTheStartSequence : Obligations.SetsofWritesTheStartSequence := by
  unfold Obligations.SetsofWritesTheStartSequence
  intro s len hb
  refine ⟨fun hgt => ⟨_, exec_setsof_of_gt hb hgt, ⟨rfl, rfl⟩, unchanged_reply s _⟩, fun hle => ?_, exec_setsof_of_zero hb⟩
  exact ⟨_, exec_setsof_of_le hb hle, ⟨rfl, rfl⟩, rfl, rfl, rfl, rfl, rfl,
    fun hpos => State.mode_of_sof_ne_nil (inBeats_ne_nil hb hpos), s.setSof_frame _ _⟩

/-- Settles O35: with no start sequence the mode is by what else is configured. -/
theorem clrsofForgetsTheStartSequence : Obligations.ClrsofForgetsTheStartSequence := by
  unfold Obligations.ClrsofForgetsTheStartSequence
  intro s hb
  exact ⟨_, exec_clrsof hb, ⟨rfl, rfl⟩, rfl, rfl, rfl, rfl, rfl, State.mode_of_sof_eq_nil rfl, s.setSof_frame _ _⟩

/-- Settles O36: the beats become the end sequence; one that is not empty yields only to a start sequence. -/
theorem seteofWritesTheEndSequence : Obligations.SeteofWritesTheEndSequence := by
  unfold Obligations.SeteofWritesTheEndSequence
  intro s len hb
  refine ⟨fun hgt => ⟨_, exec_seteof_of_gt hb hgt, ⟨rfl, rfl⟩, unchanged_reply s _⟩, fun hle => ?_, exec_seteof_of_zero hb⟩
  exact ⟨_, exec_seteof_of_le hb hle, ⟨rfl, rfl⟩, rfl, rfl, rfl,
    fun hpos => State.mode_of_eof_ne_nil (inBeats_ne_nil hb hpos), s.setEof_frame _ _⟩

/-- Settles O37: CLREOF writes the end sequence alone. -/
theorem clreofForgetsTheEndSequence : Obligations.ClreofForgetsTheEndSequence := by
  unfold Obligations.ClreofForgetsTheEndSequence
  intro s hb
  exact ⟨_, exec_clreof hb, ⟨rfl, rfl⟩, rfl, rfl, rfl, s.setEof_frame _ _⟩

/-- Settles O38: both write the expected length alone; it decides the mode where no delimiter does. -/
theorem setlenAndClrlenWriteTheExpectedLength : Obligations.SetlenAndClrlenWriteTheExpectedLength := by
  unfold Obligations.SetlenAndClrlenWriteTheExpectedLength
  intro s hb
  refine ⟨fun len => ?setlen, ?clrlen, (exec_setlen hb 0#16).trans (exec_clrlen hb).symm⟩
  case setlen =>
    exact ⟨_, exec_setlen hb len, ⟨rfl, rfl⟩, rfl, rfl, rfl, fun hsof heof => State.mode_of_no_delimiter hsof heof,
      s.setXlen_frame _ _⟩
  case clrlen => exact ⟨_, exec_clrlen hb, ⟨rfl, rfl⟩, rfl, rfl, rfl, s.setXlen_frame _ _⟩

end Sys2Proof.Machine
end

section
/-! PROOFS of the family 44_frame_triage.md: RUN as a sequence of passes, its frame and its bound (R140, R146, R147), the four
framing modes (R141 to R144), RECV (R150), FRAMES and BYTES (R151, R152). -/

namespace Sys2Proof.Machine

section FrameTriage
variable {s t : State} {fs : List Frame} {st : Status}

/-! ### One pass (R140, R145) -/

/-- What a pass of RUN decides in a state: in the framing mode of the state, on the bytes read for this pass. -/
def State.nextPass (s : State) : Pass := s.decidePass s.mode s.lseq

theorem State.sof_ne_nil_of_mode (h : s.mode = .sof) : s.sof ≠ [] := by
  rw [modePriority s] at h
  split_ifs at h
  assumption

theorem State.eof_ne_nil_of_mode (h : s.mode = .eof) : s.eof ≠ [] := by
  rw [modePriority s] at h
  split_ifs at h
  assumption

theorem State.xlen_pos_of_mode (h : s.mode = .fixed) : 0 < s.xlen.toNat := by
  rw [modePriority s] at h
  split_ifs at h
  bv_omega

/-- Opening a frame consumes at least the start delimiter. -/
theorem State.openFrame_bounds {k : Nat} (h : s.nextPass = .openFrame k) : 0 < k ∧ k ≤ s.sz := by
  obtain ⟨hmode, -, hlen, hk, -⟩ := State.decidePass_openFrame h
  exact ⟨(List.length_pos_iff.mpr (State.sof_ne_nil_of_mode hmode)).trans_le hlen, hk⟩

/-- A frame consumes its payload and, of delimiter or expected length, at least one byte (R147). -/
theorem State.frame_bounds {q c : Nat} (h : s.nextPass = .frame q c) : q ≤ c ∧ 0 < c ∧ c ≤ s.sz := by
  obtain ⟨hq, hc, ⟨hmode, -, rfl⟩ | ⟨hmode, -, rfl⟩ | ⟨hmode, -, -, rfl⟩⟩ := State.decidePass_frame h
  · exact ⟨hq, State.xlen_pos_of_mode hmode, hc⟩
  · exact ⟨hq, Nat.add_pos_right _ (List.length_pos_iff.mpr (State.eof_ne_nil_of_mode hmode)), hc⟩
  · exact ⟨hq, Nat.add_pos_right _ (List.length_pos_iff.mpr (State.sof_ne_nil_of_mode hmode)), hc⟩

/-! ### The passes to the end (R140, R147) -/

/-- `Scans s t fs st`: from `s` the passes of RUN append the frames `fs` and end in `t` with the status `st`. It is the loop
of R140 without a bound on the passes; `Scans.scan_eq` ties it to the model's loop. -/
inductive Scans : State → State → List Frame → Status → Prop
  | stop {s : State} (hp : s.nextPass = .stop) : Scans s s.drawn [] .ok
  | full {s : State} {q c : Nat} (hp : s.nextPass = .frame q c) (hroom : s.fqFull = true) : Scans s s.drawn [] .full
  | opened {s t : State} {fs : List Frame} {st : Status} {k : Nat} (hp : s.nextPass = .openFrame k)
      (h : Scans (s.drawn.openFrameAfter k) t fs st) : Scans s t fs st
  | framed {s t : State} {fs : List Frame} {st : Status} {q c : Nat} (hp : s.nextPass = .frame q c)
      (hroom : s.fqFull = false) (h : Scans (s.drawn.extract (s.lseq.take q) c) t fs st) :
      Scans s t (⟨s.lseq.take q, s.tickSample⟩ :: fs) st

/-- The passes come to an end: each but the last consumes a byte (R147). -/
theorem exists_scans (s : State) : ∃ t fs st, Scans s t fs st := by
  induction hn : s.sz using Nat.strong_induction_on generalizing s with
  | _ n ih =>
    subst hn
    cases hp : s.nextPass with
    | stop => exact ⟨_, _, _, .stop hp⟩
    | openFrame k =>
      obtain ⟨hpos, hk⟩ := State.openFrame_bounds hp
      obtain ⟨t, fs, st, h⟩ := ih _ (Nat.sub_lt_of_pos_le hpos hk) (s.drawn.openFrameAfter k) rfl
      exact ⟨_, _, _, .opened hp h⟩
    | frame q c =>
      obtain ⟨-, hpos, hc⟩ := State.frame_bounds hp
      cases hroom : s.fqFull with
      | true => exact ⟨_, _, _, .full hp hroom⟩
      | false =>
        obtain ⟨t, fs, st, h⟩ := ih _ (Nat.sub_lt_of_pos_le hpos hc) (s.drawn.extract (s.lseq.take q) c) rfl
        exact ⟨_, _, _, .framed hp hroom h⟩

/-- The model's loop, given more passes than there are valid bytes, makes the passes to the end. -/
theorem Scans.scan_eq (h : Scans s t fs st) {fuel : Nat} (hfuel : s.sz < fuel) (n : Nat) :
    scan s.mode fuel s n = (t, n + fs.length, st) := by
  induction h generalizing fuel n with
  | stop hp =>
    obtain ⟨fuel, rfl⟩ := Nat.exists_eq_add_of_lt hfuel
    rw [State.nextPass] at hp
    simp only [scan, hp, List.length_nil, Nat.add_zero]
  | full hp hroom =>
    obtain ⟨fuel, rfl⟩ := Nat.exists_eq_add_of_lt hfuel
    rw [State.nextPass] at hp
    simp only [scan, hp, hroom, List.length_nil, Nat.add_zero, if_true]
  | @opened s _ _ _ k hp _ ih =>
    obtain ⟨hpos, hk⟩ := State.openFrame_bounds hp
    obtain ⟨fuel, rfl⟩ := Nat.exists_eq_add_of_lt hfuel
    have hless : (s.drawn.openFrameAfter k).sz < s.sz + fuel := by
      rw [State.openFrameAfter_sz, State.drawn_sz]
      omega
    rw [State.nextPass] at hp
    simp only [scan, hp]
    exact ih hless n
  | @framed s _ fs _ q c hp hroom _ ih =>
    obtain ⟨-, hpos, hc⟩ := State.frame_bounds hp
    obtain ⟨fuel, rfl⟩ := Nat.exists_eq_add_of_lt hfuel
    have hless : (s.drawn.extract (s.lseq.take q) c).sz < s.sz + fuel := by
      rw [State.extract_sz, State.drawn_sz]
      omega
    rw [State.nextPass] at hp
    simp only [scan, hp, hroom, List.length_cons, Nat.add_comm fs.length, ← Nat.add_assoc]
    exact ih hless (n + 1)

/-- RUN makes the passes to the end and answers their status and the number of frames (R140). -/
theorem Scans.exec_run (h : Scans s t fs st) (hb : s.inBeats = []) :
    exec .run s = .next (t.reply (plain st fs.length)) := by
  rw [exec, execRun, State.transact_nil hb, h.scan_eq (Nat.lt_succ_self _), Nat.zero_add]
  rfl

/-- Where the first pass stops RUN answers OK 0 (R141, R144). -/
theorem exec_run_of_stop (hb : s.inBeats = []) (hp : s.nextPass = .stop) :
    exec .run s = .next (s.drawn.reply (plain .ok 0)) :=
  (Scans.stop hp).exec_run hb

/-! ### What the passes change (R140, R146, R170) -/

/-- The passes leave alone what the model's loop does. -/
theorem Scans.frame (h : Scans s t fs st) :
    t.mem = s.mem ∧ t.wp = s.wp ∧ SameShape s t ∧ SameConfig s t ∧ SameAgents s t ∧ SameChannel s t := by
  have hscan := scan_frame s.mode (s.sz + 1) s 0
  rw [h.scan_eq (Nat.lt_succ_self _)] at hscan
  obtain ⟨hmem, hwp, hshape, hconfig, hagents, hbeats, htrace⟩ := hscan
  have ⟨_, _, _, _, hword⟩ := hagents
  exact ⟨hmem, hwp, hshape, hconfig, hagents, htrace, hword, hbeats⟩

theorem Scans.inv (h : Scans s t fs st) (hs : Inv s) : Inv t := by
  have hscan := hs.scan (md := s.mode) (fuel := s.sz + 1) (n := 0)
  rwa [h.scan_eq (Nat.lt_succ_self _)] at hscan

theorem Scans.answered (h : Scans s t fs st) (r : Response) : Answered s (t.reply r) r := by
  obtain ⟨-, -, -, -, -, hchannel⟩ := h.frame
  exact hchannel.answered r

theorem Scans.fq_eq (h : Scans s t fs st) : t.fq = s.fq ++ fs := by
  induction h with
  | stop | full => exact (List.append_nil _).symm
  | opened _ _ ih => exact ih
  | framed _ _ _ ih => rw [ih]; exact List.append_assoc ..

/-- The queue takes the frames, so there are no more than it has room for (I7). -/
theorem Scans.length_le_room (h : Scans s t fs st) (hs : Inv s) : fs.length ≤ s.params.fqDepth - s.fq.length := by
  obtain ⟨-, -, -, ⟨hdepth, -⟩, -⟩ := h.inv hs
  obtain ⟨-, -, -, -, ⟨hparams, -⟩, -⟩ := h.frame
  rw [h.fq_eq, hparams, List.length_append] at hdepth
  omega

theorem Scans.sofOpen_of_open (h : Scans s t fs st) (ho : s.sofOpen = true) : t.sofOpen = true := by
  induction h with
  | stop | full => exact ho
  | opened _ _ ih => exact ih rfl
  | framed _ _ _ ih => exact ih ho

theorem Scans.sofOpen_of_mode (h : Scans s t fs st) (hmode : s.mode ≠ .sof) : t.sofOpen = s.sofOpen := by
  induction h with
  | stop | full => rfl
  | opened hp =>
    obtain ⟨hsof, -⟩ := State.decidePass_openFrame hp
    exact absurd hsof hmode
  | framed _ _ _ ih => exact ih hmode

/-- The tick never falls, and the frames are stamped after the tick the passes began with (R170). -/
theorem Scans.tick_le (h : Scans s t fs st) : s.tick ≤ t.tick ∧ ∀ f ∈ fs, s.tick ≤ f.ts := by
  induction h with
  | stop | full => exact ⟨BitVec.le_refl _, by simp⟩
  | opened _ _ ih => exact ih
  | @framed s _ _ _ _ _ _ _ _ ih =>
    obtain ⟨htick, hts⟩ := ih
    have hle := s.tick_le_tickSample
    exact ⟨BitVec.le_trans hle htick, List.forall_mem_cons.mpr ⟨hle, fun f hf => BitVec.le_trans hle (hts f hf)⟩⟩

theorem State.dropFront_dropFront (s : State) (j k : Nat) : (s.dropFront j).dropFront k = s.dropFront (j + k) := by
  simp only [State.dropFront, wrap_wrap_add, Nat.add_assoc, Nat.sub_sub]

theorem RingInv.dropFront_zero (h : RingInv s) : s.dropFront 0 = s := by
  obtain ⟨-, hrp, -⟩ := ringInv_iff.mp h
  simp only [State.dropFront, Nat.add_zero, hrp, Nat.sub_zero]

/-- The ring loses a front part, of at least a byte for each frame. -/
theorem Scans.drops (h : Scans s t fs st) (hs : RingInv s) :
    ∃ k ≤ s.sz, fs.length ≤ k ∧ t.ring = (s.dropFront k).ring := by
  induction h with
  | stop | full => exact ⟨0, Nat.zero_le _, le_rfl, by rw [hs.dropFront_zero]; rfl⟩
  | @opened s _ _ _ j hp _ ih =>
    obtain ⟨-, hj⟩ := State.openFrame_bounds hp
    obtain ⟨k, hk, hlen, hring⟩ := ih (hs.dropFront hj)
    simp only [State.openFrameAfter_sz, State.drawn_sz] at hk
    exact ⟨j + k, by omega, by omega, by rw [hring, ← State.dropFront_dropFront]; rfl⟩
  | @framed s _ _ _ _ c hp _ _ ih =>
    obtain ⟨-, hpos, hc⟩ := State.frame_bounds hp
    obtain ⟨k, hk, hlen, hring⟩ := ih (hs.dropFront hc)
    simp only [State.extract_sz, State.drawn_sz] at hk
    exact ⟨c + k, by omega, by rw [List.length_cons]; omega, by rw [hring, ← State.dropFront_dropFront]; rfl⟩

/-- The last pass is one that stops, or one that finds a frame and no room for it (R146). -/
theorem Scans.ends (h : Scans s t fs st) : ∃ u : State, t = u.drawn ∧
    (st = .ok ∧ u.nextPass = .stop ∨ st = .full ∧ u.fqFull = true ∧ ∃ q c, u.nextPass = .frame q c) := by
  induction h with
  | stop hp => exact ⟨_, rfl, .inl ⟨rfl, hp⟩⟩
  | full hp hroom => exact ⟨_, rfl, .inr ⟨rfl, hroom, _, _, hp⟩⟩
  | opened _ _ ih | framed _ _ _ ih => exact ih

theorem Scans.status (h : Scans s t fs st) : st = .ok ∨ st = .full := by
  obtain ⟨-, -, ⟨hok, -⟩ | ⟨hfull, -⟩⟩ := h.ends
  · exact .inl hok
  · exact .inr hfull

theorem Scans.queue_of_full (h : Scans s t fs st) (hst : st = .full) : t.fq.length = s.params.fqDepth := by
  obtain ⟨-, -, -, -, ⟨hparams, -⟩, -⟩ := h.frame
  obtain ⟨u, rfl, ⟨hok, -⟩ | ⟨-, hroom, -⟩⟩ := h.ends
  · cases hst.symm.trans hok
  · exact (beq_iff_eq.mp hroom).trans (congrArg Params.fqDepth hparams)

/-! ### Fixed-length mode (R143, R190) -/

theorem State.nextPass_of_fixed (hmode : s.mode = .fixed) :
    s.nextPass = if s.sz < s.xlen.toNat then .stop else .frame s.xlen.toNat s.xlen.toNat := by
  rw [State.nextPass, hmode]
  rfl

theorem State.content_extract (s : State) (p : List Byte) (c : Nat) :
    (s.drawn.extract p c).content = s.content.drop c := s.content_dropFront c

/-- The payload of a pass is what the front of the ring holds. -/
theorem State.lseq_take_agrees (s : State) {q : Nat} (hq : q ≤ s.sz) : Agrees (s.lseq.take q) (s.content.take q) := by
  rw [State.lseq, State.memRead_take s s.rp s.sz q hq]
  exact s.memRead_agrees hq

/-- Each frame takes the next xlen bytes of the content. -/
theorem Scans.cutsByLength (h : Scans s t fs st) (hmode : s.mode = .fixed) :
    fs.length * s.xlen.toNat + t.sz = s.sz ∧ t.content = s.content.drop (fs.length * s.xlen.toNat) ∧
      ∀ j (hj : j < fs.length), Agrees fs[j].payload ((s.content.drop (j * s.xlen.toNat)).take s.xlen.toNat) := by
  induction h with
  | stop | full => exact ⟨by simp, by simp, by simp⟩
  | opened hp =>
    obtain ⟨hsof, -⟩ := State.decidePass_openFrame hp
    cases hsof.symm.trans hmode
  | @framed s _ fs _ _ _ hp _ _ ih =>
    rw [State.nextPass_of_fixed hmode] at hp
    split_ifs at hp with hsz
    cases hp
    obtain ⟨hsz', hcontent, hpayload⟩ := ih hmode
    rw [State.content_extract] at hcontent hpayload
    simp only [State.extract_sz, State.extract_xlen, State.drawn_sz, State.drawn_xlen, List.drop_drop]
      at hsz' hcontent hpayload
    have hsucc (j : Nat) : (j + 1) * s.xlen.toNat = s.xlen.toNat + j * s.xlen.toNat := by rw [Nat.succ_mul, Nat.add_comm]
    refine ⟨?_, ?_, fun j hj => ?_⟩
    · rw [List.length_cons, hsucc]; omega
    · rw [List.length_cons, hsucc, hcontent]
    · cases j with
      | zero =>
        rw [Nat.zero_mul]
        exact s.lseq_take_agrees (Nat.not_lt.mp hsz)
      | succ j =>
        rw [hsucc]
        exact hpayload j (Nat.lt_of_succ_lt_succ hj)

/-- In fixed-length mode the last pass compares the bytes left with xlen. -/
theorem Scans.ends_of_fixed (h : Scans s t fs st) (hmode : s.mode = .fixed) :
    st = .ok ∧ t.sz < s.xlen.toNat ∨ st = .full ∧ s.xlen.toNat ≤ t.sz := by
  obtain ⟨-, -, -, ⟨hsof, heof, hxlen⟩, -⟩ := h.frame
  have hmode' : t.mode = .fixed := by rw [← hmode, State.mode, State.mode, hsof, heof, hxlen]
  obtain ⟨u, rfl, hend⟩ := h.ends
  rw [State.nextPass_of_fixed (s := u) hmode'] at hend
  rw [← hxlen]
  obtain ⟨hst, hstop⟩ | ⟨hst, -, q, c, hframe⟩ := hend
  · split_ifs at hstop with hlt
    exact .inl ⟨hst, hlt⟩
  · split_ifs at hframe with hlt
    exact .inr ⟨hst, Nat.not_lt.mp hlt⟩

/-- There are as many frames as pieces of xlen bytes or as there is room for; FULL says that pieces are left (R146). -/
theorem Scans.count_of_fixed (h : Scans s t fs st) (hs : Inv s) (hmode : s.mode = .fixed) :
    fs.length = min (s.sz / s.xlen.toNat) (s.params.fqDepth - s.fq.length) ∧
      st = if fs.length < s.sz / s.xlen.toNat then .full else .ok := by
  have hx := State.xlen_pos_of_mode hmode
  have hroom := h.length_le_room hs
  obtain ⟨hsum, -, -⟩ := h.cutsByLength hmode
  have hquot : s.sz / s.xlen.toNat = fs.length + t.sz / s.xlen.toNat := by
    rw [← hsum, Nat.mul_comm, Nat.mul_add_div hx]
  obtain ⟨rfl, hleft⟩ | ⟨rfl, hleft⟩ := h.ends_of_fixed hmode
  · rw [Nat.div_eq_of_lt hleft, Nat.add_zero] at hquot
    rw [hquot, if_neg (lt_irrefl _)]
    exact ⟨(Nat.min_eq_left hroom).symm, rfl⟩
  · have hmore : 1 ≤ t.sz / s.xlen.toNat := (Nat.one_le_div_iff hx).mpr hleft
    have hfull := h.queue_of_full rfl
    rw [h.fq_eq, List.length_append] at hfull
    rw [if_pos (by omega)]
    exact ⟨by omega, rfl⟩

/-! ### The delimiter modes (R141, R142, R145) -/

/-- What stands before the first occurrence of a delimiter, with the delimiter, has its first occurrence there. -/
theorem find_take_append {d bs : List Byte} {q : Nat} (hd : d ≠ []) (h : find d bs = some q) :
    find d (bs.take q ++ d) = some (bs.take q).length := by
  obtain ⟨-, hbefore, hle⟩ := find_some h
  have hlen : (bs.take q).length = q := List.length_take_of_le (by omega)
  have hfront : bs.take q ++ d <+: bs := ⟨_, (find_split h).symm⟩
  refine find_eq_of_first hd (by simp) fun k hk => Bool.eq_false_iff.mpr fun hearly => ?_
  have hmatch := (List.isPrefixOf_iff_prefix.mp hearly).trans (hfront.drop k)
  exact Bool.eq_false_iff.mp (hbefore k (hlen ▸ hk)) (List.isPrefixOf_iff_prefix.mpr hmatch)

theorem cut_nil (d bs : List Byte) : Cut d bs [] bs := ⟨rfl, by simp⟩

/-- The bytes before the first occurrence are the first payload. -/
theorem Cut.cons {d bs rest : List Byte} {ps : List (List Byte)} {q : Nat} (hd : d ≠ []) (hq : find d bs = some q)
    (h : Cut d (bs.drop (q + d.length)) ps rest) : Cut d bs (bs.take q :: ps) rest := by
  obtain ⟨hbytes, hfirst⟩ := h
  refine ⟨?_, List.forall_mem_cons.mpr ⟨find_take_append hd hq, hfirst⟩⟩
  rw [List.map_cons, List.flatten_cons, List.append_assoc, ← hbytes]
  exact find_split hq

/-- A content of specified elements is what a read of the ring finds. -/
theorem State.lseq_of_content {bs : List Byte} (h : s.content = bs.map some) : s.lseq = bs := by
  have hagrees := s.memRead_agrees le_rfl
  rw [List.take_of_length_le s.content_length.le] at hagrees
  have hsome := eq_map_some_of_agrees hagrees (by simp [h])
  exact List.map_injective_iff.mpr (Option.some_injective _) (hsome.symm.trans h)

/-- The passes cut the content at the delimiter `d`: it is the end delimiter, or the start delimiter with a frame open. -/
def CutsAt (d : List Byte) (s : State) : Prop :=
  s.mode = .eof ∧ s.eof = d ∨ s.mode = .sof ∧ s.sofOpen = true ∧ s.sof = d

theorem CutsAt.ne_nil {d : List Byte} (h : CutsAt d s) : d ≠ [] := by
  obtain ⟨hmode, rfl⟩ | ⟨hmode, -, rfl⟩ := h
  · exact State.eof_ne_nil_of_mode hmode
  · exact State.sof_ne_nil_of_mode hmode

/-- A pass stops where the delimiter does not occur, and otherwise takes the frame that ends there. -/
theorem CutsAt.nextPass_cases {d bs : List Byte} (h : CutsAt d s) (hbs : s.content = bs.map some) :
    find d bs = none ∧ s.nextPass = .stop ∨ ∃ q, find d bs = some q ∧ s.nextPass = .frame q (q + d.length) := by
  rw [State.nextPass, State.lseq_of_content hbs]
  obtain ⟨hmode, rfl⟩ | ⟨hmode, ho, rfl⟩ := h
  · rw [hmode, State.decidePass]
    cases find s.eof bs with
    | none => exact .inl ⟨rfl, rfl⟩
    | some q => exact .inr ⟨q, rfl, rfl⟩
  · rw [hmode, State.decidePass, ho]
    cases find s.sof bs with
    | none => exact .inl ⟨rfl, rfl⟩
    | some q => exact .inr ⟨q, rfl, rfl⟩

/-- The passes cut the content at the delimiter, and stop where none is left or, with one left, at a full queue. -/
theorem Scans.cut {d bs : List Byte} (h : Scans s t fs st) (hd : CutsAt d s) (hbs : s.content = bs.map some) :
    ∃ rest, Cut d bs (fs.map Frame.payload) rest ∧ t.content = rest.map some ∧
      (st = .ok ∧ find d rest = none ∨ st = .full ∧ find d rest ≠ none ∧ t.fq.length = s.params.fqDepth) := by
  induction h generalizing bs with
  | stop hp =>
    obtain ⟨hnone, -⟩ | ⟨q, -, hpass⟩ := hd.nextPass_cases hbs
    · exact ⟨bs, cut_nil d bs, hbs, .inl ⟨rfl, hnone⟩⟩
    · cases hp.symm.trans hpass
  | full hp hroom =>
    obtain ⟨-, hpass⟩ | ⟨q, hq, -⟩ := hd.nextPass_cases hbs
    · cases hp.symm.trans hpass
    · exact ⟨bs, cut_nil d bs, hbs, .inr ⟨rfl, by simp [hq], beq_iff_eq.mp hroom⟩⟩
  | opened hp =>
    obtain ⟨-, hpass⟩ | ⟨q, -, hpass⟩ := hd.nextPass_cases hbs
    · cases hp.symm.trans hpass
    · cases hp.symm.trans hpass
  | @framed s _ _ _ q _ hp _ _ ih =>
    obtain ⟨-, hpass⟩ | ⟨_, hq, hpass⟩ := hd.nextPass_cases hbs
    · cases hp.symm.trans hpass
    · cases hp.symm.trans hpass
      have hleft : (s.drawn.extract (s.lseq.take q) (q + d.length)).content = (bs.drop (q + d.length)).map some := by
        rw [State.content_extract, hbs, List.map_drop]
      obtain ⟨rest, hcut, hend⟩ := ih hd hleft
      refine ⟨rest, ?_, hend⟩
      rw [List.map_cons, State.lseq_of_content hbs]
      exact hcut.cons hd.ne_nil hq

theorem State.nextPass_of_noise {bs : List Byte} (hmode : s.mode = .sof) (hbs : s.content = bs.map some)
    (hnone : find s.sof bs = none) : s.nextPass = .stop := by
  rw [State.nextPass, State.lseq_of_content hbs, hmode, State.decidePass, hnone]

/-- With no frame open the first start delimiter opens one (R141). -/
theorem State.nextPass_of_closed {bs : List Byte} {q : Nat} (hmode : s.mode = .sof) (ho : s.sofOpen = false)
    (hbs : s.content = bs.map some) (hq : find s.sof bs = some q) : s.nextPass = .openFrame (q + s.sof.length) := by
  rw [State.nextPass, State.lseq_of_content hbs, hmode, State.decidePass, hq, ho]
  rfl

theorem Scans.of_openFrame {k : Nat} (h : Scans s t fs st) (hp : s.nextPass = .openFrame k) :
    Scans (s.drawn.openFrameAfter k) t fs st := by
  cases h with
  | opened hp' h => cases hp.symm.trans hp'; exact h
  | stop hp' | full hp' | framed hp' => cases hp.symm.trans hp'

/-! ### What RECV, FRAMES and BYTES answer -/

theorem exec_recv_of_nil (hb : s.inBeats = []) (h : s.fq = []) :
    exec .recv s = .next (s.reply (withFrame .noframe 0 0#32 [])) := by
  rw [exec, execRecv, State.transact_nil hb, h]
  rfl

theorem exec_recv_of_cons {f : Frame} {rest : List Frame} (hb : s.inBeats = []) (h : s.fq = f :: rest) :
    exec .recv s = .next (State.reply { s with fq := rest } (withFrame .ok f.length f.ts f.payload)) := by
  rw [exec, execRecv, State.transact_nil hb, h]
  rfl

theorem exec_frames (hb : s.inBeats = []) : exec .frames s = .next (s.reply (plain .ok s.fq.length)) :=
  State.transact_nil hb _

theorem exec_bytes (hb : s.inBeats = []) : exec .bytes s = .next (s.reply (plain .ok s.sz)) := State.transact_nil hb _

end FrameTriage

/-! ### The statements about RUN -/

/-- Settles O41: with more passes than valid bytes the model's loop makes the passes to the end. -/
theorem runNeedsAtMostSizePlusOnePasses : Obligations.RunNeedsAtMostSizePlusOnePasses := by
  unfold Obligations.RunNeedsAtMostSizePlusOnePasses
  intro s fuel _ hfuel
  obtain ⟨t, fs, st, h⟩ := exists_scans s
  rw [h.scan_eq hfuel, h.scan_eq (Nat.lt_succ_self _)]

/-- Settles O40: what the passes change, each part by induction over them; the bounds of the queue are the invariant's. -/
theorem runWritesOnlyItsOwn : Obligations.RunWritesOnlyItsOwn := by
  unfold Obligations.RunWritesOnlyItsOwn
  intro s hs hb
  obtain ⟨t, fs, st, h⟩ := exists_scans s
  obtain ⟨hmem, hwp, hshape, hconfig, hagents, -⟩ := h.frame
  have hroom := h.length_le_room hs
  obtain ⟨-, -, -, -, ⟨hqueue, hpast⟩, -⟩ := h.inv hs
  rw [h.fq_eq] at hqueue hpast
  obtain ⟨-, hrising, -⟩ := List.pairwise_append.mp hqueue
  obtain ⟨htick, hts⟩ := h.tick_le
  obtain ⟨-, hring, -⟩ := hs
  obtain ⟨k, hk, hlen, hdrop⟩ := h.drops hring
  have hcontent := (State.content_congr hdrop).trans (s.content_dropFront k)
  obtain ⟨-, -, hrp, -, hsz⟩ := ring_eq_iff.mp hdrop
  rw [State.dropFront_sz] at hsz
  have hlost : s.sz - t.sz = k := by omega
  rw [← hlost] at hcontent hrp
  exact ⟨_, st, fs, h.exec_run hb, h.status, h.answered _, h.fq_eq, le_min (hlen.trans hk) hroom, hrising,
    fun f hf => ⟨hts f hf, hpast f (List.mem_append_right _ hf)⟩, hsz.trans_le (Nat.sub_le _ _), hcontent, hrp, hwp,
    h.sofOpen_of_open, h.sofOpen_of_mode, h.queue_of_full, fun a => congrArg (·.read a) hmem, hshape, hconfig, hagents,
    htick⟩

/-- Settles O42: in mode NONE the first pass stops. -/
theorem runInModeNoneExtractsNothing : Obligations.RunInModeNoneExtractsNothing := by
  unfold Obligations.RunInModeNoneExtractsNothing
  intro s hb hmode
  have hstop : s.nextPass = .stop := by rw [State.nextPass, hmode]; rfl
  exact ⟨_, exec_run_of_stop hb hstop, ⟨rfl, rfl⟩, unchanged_drawn_reply s _⟩

/-- Settles O43: the number of frames is the quotient where fewer than xlen bytes are left, else the room there was. -/
theorem runInFixedModeCutsByLength : Obligations.RunInFixedModeCutsByLength := by
  unfold Obligations.RunInFixedModeCutsByLength
  intro s hs hb hmode
  obtain ⟨t, fs, st, h⟩ := exists_scans s
  obtain ⟨hsum, hcontent, hpayload⟩ := h.cutsByLength hmode
  obtain ⟨hm, rfl⟩ := h.count_of_fixed hs hmode
  obtain ⟨-, ⟨hsz, -⟩, -⟩ := hs
  refine ⟨_, fs.length, fs, hm, h.exec_run hb, h.answered _, h.fq_eq, rfl, hpayload, hcontent, ?_, ?_, fun hcap => ?_⟩
  · rw [State.reply_sz]; omega
  · exact h.sofOpen_of_mode (by rw [hmode]; exact nofun)
  · rw [hm, Nat.div_eq_of_lt (by omega), Nat.zero_min]

/-- Settles O44: in end-delimiter mode the passes cut at `eof`. -/
theorem runInEofModeCutsAtTheDelimiter : Obligations.RunInEofModeCutsAtTheDelimiter := by
  unfold Obligations.RunInEofModeCutsAtTheDelimiter
  intro s bs _ hb hmode hbs
  obtain ⟨t, fs, st, h⟩ := exists_scans s
  obtain ⟨rest, hcut, hrest, hend⟩ := h.cut (.inl ⟨hmode, rfl⟩) hbs
  have hsof : s.mode ≠ .sof := by rw [hmode]; exact nofun
  exact ⟨_, st, fs, rest, h.exec_run hb, h.answered _, h.fq_eq, hcut, hrest, h.sofOpen_of_mode hsof, hend⟩

/-- Settles O45: with a frame open the passes cut at `sof`; otherwise the first pass stops, or opens a frame and they cut the
bytes behind the delimiter. -/
theorem runInSofModeCutsAtTheDelimiter : Obligations.RunInSofModeCutsAtTheDelimiter := by
  unfold Obligations.RunInSofModeCutsAtTheDelimiter
  intro s bs _ hb hmode hbs
  refine ⟨fun _ hnone => ?noise, fun hfound => ?found⟩
  case noise =>
    exact ⟨_, exec_run_of_stop hb (State.nextPass_of_noise hmode hbs hnone), ⟨rfl, rfl⟩, unchanged_drawn_reply s _⟩
  case found =>
    obtain ⟨t, fs, st, h⟩ := exists_scans s
    cases ho : s.sofOpen with
    | true =>
      obtain ⟨rest, hcut, hrest, hend⟩ := h.cut (.inr ⟨hmode, ho, rfl⟩) hbs
      exact ⟨_, st, fs, [], bs, rest, h.exec_run hb, h.answered _, h.sofOpen_of_open ho, h.fq_eq, rfl, fun _ => rfl,
        nofun, hcut, hrest, hend⟩
    | false =>
      obtain ⟨q, hq⟩ := Option.ne_none_iff_exists'.mp (hfound.resolve_left (by simp [ho]))
      have hbody : (s.drawn.openFrameAfter (q + s.sof.length)).content = (bs.drop (q + s.sof.length)).map some := by
        rw [List.map_drop, ← hbs]
        exact s.content_dropFront _
      have hopened := h.of_openFrame (State.nextPass_of_closed hmode ho hbs hq)
      obtain ⟨rest, hcut, hrest, hend⟩ := hopened.cut (.inr ⟨hmode, rfl, rfl⟩) hbody
      obtain ⟨-, -, hle⟩ := find_some hq
      refine ⟨_, st, fs, bs.take q ++ s.sof, _, rest, h.exec_run hb, h.answered _, hopened.sofOpen_of_open rfl, h.fq_eq,
        find_split hq, nofun, fun _ => ⟨bs.take q, rfl, ?_⟩, hcut, hrest, hend⟩
      rw [hq, List.length_take_of_le (by omega)]

/-! ### The statements about RECV, FRAMES and BYTES -/

/-- Settles O46: RECV answers NOFRAME from the state it found, or takes the head of the queue. -/
theorem recvTakesTheOldestFrame : Obligations.RecvTakesTheOldestFrame := by
  unfold Obligations.RecvTakesTheOldestFrame
  intro s hb
  refine ⟨fun hnil => ⟨_, exec_recv_of_nil hb hnil, ⟨rfl, rfl⟩, unchanged_reply s _⟩, fun f rest hcons => ?_⟩
  exact ⟨_, exec_recv_of_cons hb hcons, ⟨rfl, rfl⟩, rfl, rfl, fun _ => rfl, ⟨rfl, rfl, rfl⟩, ⟨rfl, rfl⟩, ⟨rfl, rfl, rfl⟩,
    ⟨rfl, rfl, rfl, rfl, rfl⟩, rfl, rfl⟩

/-- Settles O47: both are responses from the state found, those of the status registers 9 and 2. -/
theorem framesAndBytesCount : Obligations.FramesAndBytesCount := by
  unfold Obligations.FramesAndBytesCount
  intro s hb
  exact ⟨⟨_, exec_frames hb, ⟨rfl, rfl⟩, unchanged_reply s _⟩, ⟨_, exec_bytes hb, ⟨rfl, rfl⟩, unchanged_reply s _⟩,
    (exec_frames hb).trans (exec_rdsr_of_some hb rfl).symm, (exec_bytes hb).trans (exec_rdsr_of_some hb rfl).symm⟩

end Sys2Proof.Machine
end

section
/-! PROOFS of the family 60_exceptions.md: what the status of a command depends on (R160, R161). -/

namespace Sys2Proof

/-- The conditions of R160 as a function of what R161 lets a status depend on (`queued` is |fq|). These counts do not decide
RUN's FULL, so `exec_signals`, which ties the table to the model, leaves RUN out. -/
def Instr.status (cap sz queued cmax dmaxlen : Nat) : Instr → Machine.Status
  | .push _ => if sz = cap then .full else .ok
  | .pushn len => if cap - sz < len.toNat then .full else .ok
  | .pop | .peek => if sz = 0 then .empty else .ok
  | .recv => if queued = 0 then .noframe else .ok
  | .dmasync rem => if cap < rem.toNat then .ignored else .ok
  | .setrp pos => if cap ≤ pos.toNat then .ignored else .ok
  | .resize newcap => if cmax < newcap.toNat then .ignored else .ok
  | .setsof len | .seteof len => if dmaxlen < len.toNat then .ignored else .ok
  | .rdsr r => if 14 < r.toNat then .ignored else .ok
  | .nop | .popn _ | .read _ | .peekn _ | .index _ | .clear | .run | .clrsof | .clreof | .setlen _ | .clrlen | .frames
  | .bytes => .ok

namespace Machine

section Status
variable {s s' t u : State} {st st' : Status} {a b : Result}

/-- The body of a command's rule completes with a response of the status `st`. -/
def Signals (s : State) (st : Status) (body : Result) : Prop := ∃ t r, body = .next t ∧ Answered s t r ∧ r.st = st.code

theorem signals_reply {r : Response} {val : Half} (h : SameChannel s u) (hr : r.word = responseWord st val) :
    Signals s st (.next (u.reply r)) :=
  ⟨_, r, rfl, h.answered r, Response.st_eq hr⟩

theorem signals_ite {p q : Prop} [Decidable p] [Decidable q] (hpq : p ↔ q) (ha : Signals s st a) (hb : Signals s st' b) :
    Signals s (if p then st else st') (if q then a else b) := by
  by_cases h : q
  · rwa [if_pos h, if_pos (hpq.mpr h)]
  · rwa [if_neg h, if_neg (mt hpq.mp h)]

theorem signals_transact {n : Nat} (hn : s.inBeats.length = n) (h : Signals s st a) : Signals s st (s.transact n a) := by
  rwa [State.transact_eq hn]

/-- Two commands that complete with one status answer responses of the same `st`. -/
theorem Signals.same (h : Signals s st a) (h' : Signals s' st b) :
    ∃ t t' r r', a = .next t ∧ b = .next t' ∧ Answered s t r ∧ Answered s' t' r' ∧ r.st = r'.st := by
  obtain ⟨t, r, ht, hr, hst⟩ := h
  obtain ⟨t', r', ht', hr', hst'⟩ := h'
  exact ⟨t, t', r, r', ht, ht', hr, hr', hst.trans hst'.symm⟩

/-! ### Every command but RUN (R160, R161) -/

theorem exec_rdsr_signals (hb : s.inBeats = []) (r : Half) :
    Signals s (if 14 < r.toNat then .ignored else .ok) (exec (.rdsr r) s) := by
  have hsame : SameChannel s s := ⟨rfl, rfl, rfl⟩
  split
  · next hr =>
    rw [exec_rdsr_of_none hb ((s.statusRegister_eq _).trans (List.getElem?_eq_none hr))]
    exact signals_reply hsame rfl
  · next hr =>
    have hlt : r.toNat < s.registers.length := Nat.lt_succ_of_le (Nat.not_lt.mp hr)
    rw [exec_rdsr_of_some hb ((s.statusRegister_eq _).trans (List.getElem?_eq_getElem hlt))]
    exact signals_reply hsame rfl

/-- A command other than RUN answers the status of R160's table. -/
theorem exec_signals {i : Instr} (hi : i ≠ .run) (hb : s.inBeats.length = i.beatCount) :
    Signals s (i.status s.cap s.sz s.fq.length s.params.cmax s.params.dmaxlen) (exec i s) := by
  have hsame : SameChannel s s := ⟨rfl, rfl, rfl⟩
  cases i with
  | run => exact absurd rfl hi
  | nop | popn | read | peekn | clear | clrsof | clreof | setlen | clrlen | frames | bytes =>
    exact signals_transact hb (signals_reply hsame rfl)
  | dmasync | setrp | resize | setsof | seteof =>
    exact signals_transact hb (signals_ite Iff.rfl (signals_reply hsame rfl) (signals_reply hsame rfl))
  | push | pop | peek =>
    exact signals_transact hb (signals_ite beq_iff_eq.symm (signals_reply hsame rfl) (signals_reply hsame rfl))
  | index k =>
    refine signals_transact hb ?_
    split <;> exact signals_reply hsame rfl
  | pushn len =>
    have hfits : (if min len.toNat s.room = len.toNat then Status.ok else .full)
        = if s.room < len.toNat then .full else .ok :=
      (ite_not ..).symm.trans (if_congr (min_eq_left_iff.not.trans Nat.not_le) rfl rfl)
    refine signals_transact hb ?_
    rw [hfits]
    exact signals_reply (sameChannel_memWrite s _ _) rfl
  | recv =>
    have hnil : s.inBeats = [] := List.eq_nil_of_length_eq_zero hb
    cases hfq : s.fq with
    | nil =>
      rw [exec_recv_of_nil hnil hfq]
      exact signals_reply hsame rfl
    | cons f rest =>
      rw [exec_recv_of_cons hnil hfq]
      exact signals_reply hsame rfl
  | rdsr r => exact exec_rdsr_signals (List.eq_nil_of_length_eq_zero hb) r

/-! ### RUN (R161) -/

/-- At most the DMA agent, the tick source and the queued frames, but not their number, differ. -/
def OnlyAgents (s u : State) : Prop :=
  ∃ len rem tick samples fq, fq.length = s.fq.length
    ∧ u = { s with dmaLen := len, dmaRem := rem, tick := tick, samples := samples, fq := fq }

theorem OnlyAgents.fqFull_eq (h : OnlyAgents s u) : u.fqFull = s.fqFull := by
  obtain ⟨_, _, _, _, _, hlen, rfl⟩ := h
  exact congrArg (· == s.params.fqDepth) hlen

theorem OnlyAgents.nextPass_eq (h : OnlyAgents s u) : u.nextPass = s.nextPass := by
  obtain ⟨_, _, _, _, _, -, rfl⟩ := h
  rfl

theorem OnlyAgents.openFrameAfter (h : OnlyAgents s u) (k : Nat) :
    OnlyAgents (s.drawn.openFrameAfter k) (u.drawn.openFrameAfter k) := by
  obtain ⟨len, rem, tick, samples, fq, hlen, rfl⟩ := h
  exact ⟨len, rem, tick, samples, fq, hlen, rfl⟩

/-- The tick enters the timestamp of the queued frame, and nothing else that a pass reads. -/
theorem OnlyAgents.extract (h : OnlyAgents s u) (q c : Nat) :
    OnlyAgents (s.drawn.extract (s.lseq.take q) c) (u.drawn.extract (u.lseq.take q) c) := by
  obtain ⟨len, rem, tick, samples, fq, hlen, rfl⟩ := h
  refine ⟨len, rem, _, _, _, ?_, rfl⟩
  simp [hlen]

/-- The passes of RUN decide the same whatever the agents hold. -/
theorem Scans.congr {fs : List Frame} (h : Scans s t fs st) (hu : OnlyAgents s u) : ∃ t' fs', Scans u t' fs' st := by
  induction h generalizing u with
  | stop hp => exact ⟨_, _, .stop (hu.nextPass_eq.trans hp)⟩
  | full hp hroom => exact ⟨_, _, .full (hu.nextPass_eq.trans hp) (hu.fqFull_eq.trans hroom)⟩
  | opened hp _ ih =>
    obtain ⟨t', fs', h'⟩ := ih (hu.openFrameAfter _)
    exact ⟨t', fs', .opened (hu.nextPass_eq.trans hp) h'⟩
  | framed hp hroom _ ih =>
    obtain ⟨t', _, h'⟩ := ih (hu.extract _ _)
    exact ⟨t', _, .framed (hu.nextPass_eq.trans hp) (hu.fqFull_eq.trans hroom) h'⟩

theorem Scans.signals {fs : List Frame} (h : Scans s t fs st) (hb : s.inBeats = []) : Signals s st (exec .run s) :=
  ⟨_, _, h.exec_run hb, h.answered _, Response.st_eq rfl⟩

end Status

/-- Settles O53: R160's table gives the status of every command but RUN; RUN's passes are the same whatever the agents
hold. -/
theorem statusDependsOnlyOnCounts : Obligations.StatusDependsOnlyOnCounts := by
  unfold Obligations.StatusDependsOnlyOnCounts
  refine ⟨fun i s len rem samples tick hb => ?agents, fun i s s' hi hb hb' hcap hsz hfq hcmax hdmaxlen => ?counts⟩
  case agents =>
    by_cases hi : i = .run
    · subst hi
      have hnil : s.inBeats = [] := List.eq_nil_of_length_eq_zero hb
      obtain ⟨t, fs, st, h⟩ := exists_scans s
      obtain ⟨t', fs', h'⟩ := h.congr ⟨len, rem, tick, samples, s.fq, rfl, rfl⟩
      exact (h.signals hnil).same (h'.signals hnil)
    · exact (exec_signals hi hb).same (exec_signals hi hb)
  case counts =>
    have h := exec_signals hi hb
    rw [hcap, hsz, hfq, hcmax, hdmaxlen] at h
    exact h.same (exec_signals hi hb')

end Machine
end Sys2Proof
end

section
/-! PROOFS of the family 70_reset_and_hazards.md: the reset values reached by commands (R181). -/

namespace Sys2Proof

/-- CINIT fits the operand of RESIZE (R4, R62). -/
theorem Params.cinit_toNat {p : Params} (h : p.wf) : (BitVec.ofNat 16 p.cinit).toNat = p.cinit := by
  obtain ⟨-, hcmax, hcinit, -⟩ := h
  rw [BitVec.toNat_ofNat, Nat.mod_eq_of_lt (by omega)]

namespace Machine

/-- Every register but storage and the frame queue holds its value after reset (R29). -/
def RegistersReset (p : Params) (u : State) : Prop :=
  u.cap = p.cinit ∧ u.rp = 0 ∧ u.wp = 0 ∧ u.sz = 0 ∧ u.ldc = 0 ∧ u.sof = [] ∧ u.eof = [] ∧ u.xlen = 0#16
    ∧ u.sofOpen = false

section Runs
variable {s t : State} {rest : List Event}

/-- A run over a pending command goes on from the state the command leaves (R9, R60). -/
theorem run_succ_of_exec {i : Instr} {beats : List Byte} (hp : s.pending = .command (encode i) beats :: rest)
    (h : exec i (s.present (encode i) beats rest) = .next t) (k : Nat) : core.run (k + 1) s = core.run k t :=
  run_succ_of_step ((step_of_pending_legal hp (decodeOfEncode i)).trans h) k

/-- The five commands of R181 give every register but storage and the frame queue its reset value (R29, R120, R121, R131, R133,
R135). -/
theorem run_restoring_commands (hparams : s.params.wf)
    (hp : s.pending = commands [(.resize (BitVec.ofNat 16 s.params.cinit), []), (.clear, []), (.clrsof, []), (.clreof, []),
      (.clrlen, [])] ++ rest) (k : Nat) :
    ∃ u, core.run (k + 5) s = core.run k u ∧ u.pending = rest ∧ u.fq = s.fq ∧ RegistersReset s.params u := by
  have hcinit := Params.cinit_toNat hparams
  obtain ⟨-, -, hle, -⟩ := hparams
  have hrun := calc core.run (k + 5) s
    _ = _ := run_succ_of_exec hp (exec_resize_of_le rfl (hcinit.trans_le hle)) _
    _ = _ := run_succ_of_exec rfl (exec_clear rfl) _
    _ = _ := run_succ_of_exec rfl (exec_clrsof rfl) _
    _ = _ := run_succ_of_exec rfl (exec_clreof rfl) _
    _ = _ := run_succ_of_exec rfl (exec_clrlen rfl) _
  exact ⟨_, hrun, rfl, by simp, hcinit, rfl, rfl, rfl, rfl, rfl, rfl, rfl, rfl⟩

/-- One RECV a queued frame empties the queue and beside it changes the channel alone (R150). -/
theorem run_recv_each {fq : List Frame} (hfq : s.fq = fq)
    (hp : s.pending = commands (List.replicate fq.length (.recv, [])) ++ rest) :
    ∃ word beats trace, core.run fq.length s =
      .next { s with fq := [], pending := rest, cmdWord := word, inBeats := beats, trace := trace } := by
  induction fq generalizing s with
  | nil =>
    have hrest : s.pending = rest := hp
    have hs : s = { s with fq := [], pending := rest } := by rw [← hfq, ← hrest]
    exact ⟨_, _, _, congrArg Host.Outcome.next hs⟩
  | cons f fq ih =>
    rw [List.length_cons, run_succ_of_exec hp (exec_recv_of_cons rfl hfq)]
    exact ih rfl rfl

end Runs

/-- Settles O56: five commands restore all but storage and the queue, and the RECVs find a frame each. -/
theorem commandsReachTheResetValues : Obligations.CommandsReachTheResetValues := by
  unfold Obligations.CommandsReachTheResetValues
  intro s rest hs cs hp
  obtain ⟨hparams, -⟩ := hs
  have hlen : cs.length = s.fq.length + 5 := by simp [cs]
  obtain ⟨u, hrun, hpending, hfq, hcap, hrp, hwp, hsz, hldc, hsof, heof, hxlen, hopen⟩ :=
    run_restoring_commands hparams hp s.fq.length
  obtain ⟨word, beats, trace, hrecv⟩ := run_recv_each hfq hpending
  exact ⟨_, (congrArg (core.run · s) hlen).trans (hrun.trans hrecv), rfl, hcap, hrp, hwp, hsz, hldc, hsof, heof, hxlen, hopen,
    rfl⟩

end Machine
end Sys2Proof
end

section
/-! PROOFS of the family other: the sample command words (R61, R67, R68), the agent's steps that are refused (R44 to R47,
log 9). -/

namespace Sys2Proof

/-! ### The clauses of R68 that reject a word -/

theorem decode_of_z_ne {w : Word} (hz : zField w ≠ 0#8) : decode w = .error (.reservedNotZero (zField w)) := if_neg hz

theorem decode_of_unknown_opcode {w : Word} (hz : zField w = 0#8) (hop : opField w ∉ opcodes) :
    decode w = .error (.unknownOpcode (opField w)) :=
  (decode_of_z hz).trans (decodeFields_of_not_mem_opcodes hop _)

theorem decodePush_of_wide {imm : Half} (h : 256 ≤ imm.toNat) : decodePush imm = .error (.elementTooWide imm) :=
  if_neg (mt (high_eq_zero_iff imm).mp h.not_gt)

theorem decodeBare_of_ne {imm : Half} (h : imm ≠ 0#16) (i : Instr) : decodeBare imm i = .error (.operandNotZero imm) :=
  if_neg h

/-- Settles O1: each legal word is the encoding of its command, and each illegal one meets one clause of R68. -/
theorem sampleWordsDecode : Obligations.SampleWordsDecode := by
  unfold Obligations.SampleWordsDecode
  refine ⟨decodeOfEncode .nop, decodeOfEncode (.push 4#8), decodeOfEncode (.pushn 3#16), decodeOfEncode .pop,
    decodeOfEncode (.popn 0xFFFF#16), decodeOfEncode (.dmasync 5#16), decodeOfEncode (.setrp 6#16),
    decodeOfEncode (.resize 3#16), decodeOfEncode .run, decodeOfEncode .recv, decodeOfEncode (.setsof 3#16),
    decodeOfEncode (.setlen 10#16), decodeOfEncode (.rdsr 15#16), ?opcode, ?z, ?wide, ?operand⟩
  case opcode => exact decode_of_unknown_opcode rfl (by decide)
  case z => exact decode_of_z_ne (by decide)
  case wide => exact (decode_of_z rfl).trans (decodePush_of_wide (by decide))
  case operand => exact (decode_of_z rfl).trans (decodeBare_of_ne (by decide) .pop)

namespace Machine

/-! ### The agent's steps that are not enabled (log 9) -/

section Refused
variable {s : State}

theorem dmaWrite_of_disabled {b : Byte} (hrem : s.dmaRem = 0) : dmaWrite b s = .refused .dmaStepNotEnabled := if_pos hrem

theorem dmaReload_of_disabled (h : s.dmaRem ≠ 0 ∨ s.dmaLen = 0) : dmaReload s = .refused .dmaStepNotEnabled :=
  if_neg fun ⟨hrem, hlen⟩ => h.elim (· hrem) (Nat.one_le_iff_ne_zero.mp hlen)

theorem dmaStart_of_gt {n : Nat} (hn : s.params.cmax < n) : dmaStart n s = .refused .dmaLengthOutOfRange :=
  if_neg hn.not_ge

end Refused

/-- Settles O28: taking the event leaves the agent's variables and CMAX, on which each refusal depends. -/
theorem disabledAgentStepsAreRefused : Obligations.DisabledAgentStepsAreRefused := by
  unfold Obligations.DisabledAgentStepsAreRefused
  refine fun s rest => ⟨fun b hp hrem => ?write, fun hp h => ?reload, fun n hp hn => ?start⟩
  case write => exact (step_of_pending_dmaWrite hp).trans (dmaWrite_of_disabled hrem)
  case reload => exact (step_of_pending_dmaReload hp).trans (dmaReload_of_disabled h)
  case start => exact (step_of_pending_dmaStart hp).trans (dmaStart_of_gt hn)

end Machine
end Sys2Proof
end
